-- ==== Sys2Proof/Word.lean ====
section
/-! DEFINITION. The data types of the block: bytes, BitValues (R110), tries (R12, R140), the output
mode (R20, R25) and the four error kinds (R230). Data only: every operation on them is in
Sys2Proof/Machine/. -/

namespace Sys2Proof

/-- One byte of IN or OUT, a leaf symbol, or a descriptor (R9). -/
abbrev Byte := BitVec 8

/-- A BitValue `(v, w)`: an unsigned value and a width, both natural numbers (R11, R110).
The invariant `v < 2^w` is `BitValue.ok`. -/
structure BitValue where
  v : Nat
  w : Nat
deriving DecidableEq, Repr, Inhabited

/-- The empty BitValue `EMPTY = (0, 0)` (R11). -/
abbrev BitValue.empty : BitValue := ⟨0, 0⟩

/-- The invariant of R110: the stored value lies below `2^w`. -/
abbrev BitValue.ok (x : BitValue) : Prop := x.v < 2 ^ x.w

/-- The spec's `Option Node` (R12) as one type: `absent` is `none`, `leaf` and `internal` are the two
kinds of node (R140). A leaf has no children, so a node that is both cannot be written down (R27). -/
inductive Trie where
  | absent
  | leaf (sym : Byte)
  | internal (c0 c1 : Trie)
deriving DecidableEq, Repr, Inhabited

/-- The output mode (R20, R25): 4-bit or 8-bit symbols. -/
inductive Mode where
  | nibble4
  | byte8
deriving DecidableEq, Repr, Inhabited

/-- The four error kinds of a decode call (R230). -/
inductive ErrKind where
  | unrecognizedFormat
  | corruptTree
  | corruptStream
  | truncatedInput
deriving DecidableEq, Repr, Inhabited

end Sys2Proof
end

