-- ==== Sys2Proof/Config.lean ====
section
/-! DEFINITION. What an instance of the block fixes (the parameters of R8) and the free values: what
the spec leaves unspecified (`any value` in 93_implementation_defined.md), each an opaque constant.

The parameters are DATA, held by State in its field `cfg`, so every claim about a state is a claim
for every choice of them (log 1). The free values have no body: no proof can use a value of one. -/

namespace Sys2Proof

/-- How the 4 bytes of a window form the 32-bit value (`WINDOW_ORDER`, R8, R56). -/
inductive WindowOrder where
  | big
  | little
deriving DecidableEq, Repr, Inhabited

/-- What 4-bit mode does with a leaf symbol above 0xF (`WIDE_NIBBLE_POLICY`, R8, R204). -/
inductive WidePolicy where
  | truncate
  | fault
deriving DecidableEq, Repr, Inhabited

/-- The parameters of one instance of the block (R8). `IN_LEN` is not here: it is given per call. -/
structure Config where
  /-- `MAGIC4`: the magic byte that selects 4-bit mode. -/
  magic4 : Byte
  /-- `MAGIC8`: the magic byte that selects 8-bit mode. -/
  magic8 : Byte
  /-- `WINDOW_ORDER`. -/
  windowOrder : WindowOrder
  /-- `WIDE_NIBBLE_POLICY`. -/
  widePolicy : WidePolicy
  /-- `IN_ADDR_W`: the width of an input address. -/
  inAddrW : Nat
  /-- `BV_MAX`: the largest BitValue width the bit extractor holds. -/
  bvMax : Nat
deriving DecidableEq, Repr, Inhabited

/-- What R8 asks of the parameters: the two magic values differ, and `BV_MAX` is at least 32. -/
abbrev Config.ok (c : Config) : Prop := c.magic4 ≠ c.magic8 ∧ 32 ≤ c.bvMax

/-- The parameters of the instance `State.reset` stands for: the spec's defaults where it has them
(`BIG`, `TRUNCATE`), its expected magic values (D3), the least `BV_MAX` it allows, and 24 address bits.
PRESUMED for the magic values, DESIGN CHOICE for `inAddrW` and `bvMax` (log 2). Unsafe for a claim
about this one instance; claims about every state do not rest on it. -/
def Config.expected : Config :=
  { magic4 := 0x24#8, magic8 := 0x28#8, windowOrder := .big, widePolicy := .truncate,
    inAddrW := 24, bvMax := 32 }

/-- The registers that `SD.RESET` leaves unspecified (R261), as one record, each of the width R20 gives it.
`inLen` and `bodyCur` are as wide as the address width of the instance, so `resetBlock` cuts them to it. -/
structure ResetDraw where
  err : ErrKind
  inLen : Nat
  mode : Mode
  declLen : BitVec 24
  treeSel : Byte
  treeEnd : BitVec 10
  root : Trie
  node : Trie
  pendVal : BitVec 32
  pendWidth : Fin 33
  bodyCur : Nat
  emitted : BitVec 24
  nibFull : Bool
  nibHi : Byte
deriving DecidableEq, Repr, Inhabited

/-- FREE VALUE (U1): what the registers hold after the reset that takes draw number `n` (log 5). -/
opaque Config.freeReset : Nat → ResetDraw

/-- FREE VALUE: what `BV.DROPMSB` returns for an operand of width 0, for which R117 states no result, in the
draw number `n` (log 24). -/
opaque Config.freeBits : Nat → BitValue

/-- FREE VALUE (U6): an IN byte read after the host changed IN during a call (R63), by the number of
the draw, the place in the tree walk that reads it, and the address (log 6). -/
opaque Config.freeIn : Nat → List Bool → Nat → Byte

/-- FREE VALUE: what IN holds at an address where the host placed nothing (log 7). -/
opaque Config.inContent : Nat → Byte

/-- FREE VALUE (U3 to U5, U7): what the host's `k`-th read of OUT returns at an address when OUT is not a
result it may read (R64, R265; log 8). -/
opaque Config.freeOut : Nat → Nat → Byte

end Sys2Proof
end

