-- ==== Sys2Proof/Syntax.lean ====
section
/-! DEFINITION. The instructions: one constructor per row of spec/opcode_table.json (R97), and the
places of the input in which a byte can stand (R88, R97): the block decodes a byte by its place. -/

namespace Sys2Proof

/-- Where in the input the bytes of a format stand (R80, R88). Only the magic byte is decoded by value;
every other byte is decoded by its place. -/
inductive Slot where
  /-- input byte 0 (R81) -/
  | magic
  /-- input bytes 1 to 3 (R81) -/
  | length
  /-- input byte 4 (R84) -/
  | selector
  /-- the tree byte at address `a`, reached as the root or through a parent flag 0 (R86, R88) -/
  | node (a : Nat)
  /-- a tree byte reached through a parent flag 1 (R87, R88) -/
  | leaf
  /-- the 4 bytes of a body window (R90) -/
  | window
  /-- one stream bit, as a byte whose bits 7..1 are 0 (R92) -/
  | bit
deriving DecidableEq, Repr

/-- The rows of the opcode table. A row of a byte format carries the fields the table gives it; a row of
an internal operation carries the operands its rule gives it; a control step reads the registers. -/
inductive Instr where
  /-- HDR.MAGIC4 (R82) -/
  | hdrMagic4
  /-- HDR.MAGIC8 (R82) -/
  | hdrMagic8
  /-- HDR.BADMAGIC (R82) -/
  | hdrBadmagic (m : Byte)
  /-- HDR.LEN (R83) -/
  | hdrLen (len : BitVec 24)
  /-- TREE.SEL (R84) -/
  | treeSel (sel : Byte)
  /-- TREE.NODE (R86): the descriptor at address `a` -/
  | treeNode (a : Nat) (l0 l1 : Bool) (off : BitVec 6)
  /-- TREE.LEAF (R87) -/
  | treeLeaf (sym : Byte)
  /-- BODY.WINDOW (R90): the bytes at `bodyCur` to `bodyCur + 3` -/
  | bodyWindow (b0 b1 b2 b3 : Byte)
  /-- BODY.BIT0 (R92) -/
  | bodyBit0
  /-- BODY.BIT1 (R92) -/
  | bodyBit1
  /-- BV.MAKE (R111) -/
  | bvMake (value width : Nat)
  /-- BV.MATCHES (R112): the pattern, then the candidate -/
  | bvMatches (pat cand : BitValue)
  /-- BV.CONCAT (R113) -/
  | bvConcat (high low : BitValue)
  /-- BV.MSB (R114) -/
  | bvMsb (x : BitValue)
  /-- BV.SHR (R115) -/
  | bvShr (x : BitValue) (n : Nat)
  /-- BV.SHL (R116) -/
  | bvShl (x : BitValue) (n : Nat)
  /-- BV.DROPMSB (R117) -/
  | bvDropmsb (x : BitValue)
  /-- TD.DECODENODE (R141) -/
  | tdDecodenode (a regionEnd : Nat) (isLeaf : Bool)
  /-- TRIE.INSERT (R157) -/
  | trieInsert (t : Trie) (path : BitValue) (sym : Byte)
  /-- TRIE.FROMMAP (R158) -/
  | trieFrommap (m : List (BitValue × Byte))
  /-- DESC.LEAF (R171) -/
  | descLeaf
  /-- DESC.REFILL (R172) -/
  | descRefill
  /-- DESC.BRANCH (R173) -/
  | descBranch
  /-- SD.START (R191), with the host's `IN_LEN` -/
  | sdStart (len : Nat)
  /-- SD.READHEADER (R192) -/
  | sdReadheader
  /-- SD.READTREE (R195) -/
  | sdReadtree
  /-- SD.CHECK (R197) -/
  | sdCheck
  /-- SD.REFILL (R199) -/
  | sdRefill
  /-- SD.EMIT8 (R201) -/
  | sdEmit8 (sym : Byte)
  /-- SD.EMIT4HI (R202) -/
  | sdEmit4hi (sym : Byte)
  /-- SD.EMIT4LO (R203) -/
  | sdEmit4lo (sym : Byte)
  /-- SD.RESET (R260) -/
  | sdReset
deriving DecidableEq, Repr

end Sys2Proof
end

