-- ==== Sys2Proof/WellFormed.lean ====
section
/-! DEFINITION. When the operands of an instruction are ones its rule speaks of. It is a condition of the claims;
a step does not check it, since every operand form has a meaning of its own (log 19). -/

namespace Sys2Proof

/-- The operand conditions of each row.
* HDR.BADMAGIC stands for a byte that is neither magic value (R82).
* TREE.NODE: a node is decoded only at an address from 5 to 515 (R85, R145).
* Every BitValue operand meets its invariant (R110).
* BV.DROPMSB requires a width of at least 1 (R117).
* SD.START: `IN_LEN <= 2^IN_ADDR_W` (R8). -/
def WellFormed (c : Config) : Instr → Bool
  | .hdrMagic4 => true
  | .hdrMagic8 => true
  | .hdrBadmagic m => decide (m ≠ c.magic4 ∧ m ≠ c.magic8)
  | .hdrLen _ => true
  | .treeSel _ => true
  | .treeNode a _ _ _ => decide (5 ≤ a ∧ a < 516)
  | .treeLeaf _ => true
  | .bodyWindow _ _ _ _ => true
  | .bodyBit0 => true
  | .bodyBit1 => true
  | .bvMake _ _ => true
  | .bvMatches pat cand => decide (pat.ok ∧ cand.ok)
  | .bvConcat high low => decide (high.ok ∧ low.ok)
  | .bvMsb x => decide x.ok
  | .bvShr x _ => decide x.ok
  | .bvShl x _ => decide x.ok
  | .bvDropmsb x => decide (x.ok ∧ 1 ≤ x.w)
  | .tdDecodenode _ _ _ => true
  | .trieInsert _ path _ => decide path.ok
  | .trieFrommap m => m.all fun p => decide p.1.ok
  | .descLeaf => true
  | .descRefill => true
  | .descBranch => true
  | .sdStart len => decide (len ≤ 2 ^ c.inAddrW)
  | .sdReadheader => true
  | .sdReadtree => true
  | .sdCheck => true
  | .sdRefill => true
  | .sdEmit8 _ => true
  | .sdEmit4hi _ => true
  | .sdEmit4lo _ => true
  | .sdReset => true

end Sys2Proof
end

