-- ==== Sys2Proof/Decode.lean ====
section
/-! DEFINITION. The byte-level decoder (R81 to R92, R97), total on any bytes and rejecting by name; the
encoder from the same formats; and `decodeTableWord`, the decoder on a word of the opcode table.

The rows of internal operations have no bit pattern (30_encoding.md, introduction): no bytes decode to
them and `encode` gives them none. -/

namespace Sys2Proof

/-- Why the decoder refuses bytes. -/
inductive DecodeError where
  /-- the bytes are not as many as the format has (R80) -/
  | wrongLength
  /-- a stream bit is 0 or 1 (R92) -/
  | notABit
deriving DecidableEq, Repr

/-- The mode a magic byte selects; `none` for any other value (R82). -/
def magicMode (c : Config) (m : Byte) : Option Mode :=
  if m = c.magic4 then some .nibble4 else if m = c.magic8 then some .byte8 else none

/-- The declared length from input bytes 1, 2, 3, little-endian (R55, R83). -/
def lengthOf (b1 b2 b3 : Byte) : BitVec 24 := b3 ++ b2 ++ b1

/-- Flag `L0` of a descriptor, bit 7 (R86). -/
def descL0 (d : Byte) : Bool := d.getLsbD 7

/-- Flag `L1` of a descriptor, bit 6 (R86). -/
def descL1 (d : Byte) : Bool := d.getLsbD 6

/-- Field `OFF` of a descriptor, bits 5..0 (R86). -/
def descOff (d : Byte) : BitVec 6 := d.extractLsb' 0 6

/-- The descriptor byte `(L0 << 7) | (L1 << 6) | OFF` (R86, R96). -/
def descriptorByte (l0 l1 : Bool) (off : BitVec 6) : Byte :=
  BitVec.ofBool l0 ++ (BitVec.ofBool l1 ++ off)

/-- How many bytes the format at a place has (R80); a stream bit is written as one byte (log 13). -/
def slotLength : Slot → Nat
  | .magic => 1
  | .length => 3
  | .selector => 1
  | .node _ => 1
  | .leaf => 1
  | .window => 4
  | .bit => 1

/-- The instruction that bytes stand for, by their place in the input (R88, R97). -/
def decode (c : Config) : Slot → List Byte → Except DecodeError Instr
  | .magic, [m] =>
    match magicMode c m with
    | some .nibble4 => .ok .hdrMagic4
    | some .byte8 => .ok .hdrMagic8
    | none => .ok (.hdrBadmagic m)
  | .length, [b1, b2, b3] => .ok (.hdrLen (lengthOf b1 b2 b3))
  | .selector, [b] => .ok (.treeSel b)
  | .node a, [d] => .ok (.treeNode a (descL0 d) (descL1 d) (descOff d))
  | .leaf, [b] => .ok (.treeLeaf b)
  | .window, [b0, b1, b2, b3] => .ok (.bodyWindow b0 b1 b2 b3)
  | .bit, [b] =>
    if b = 0#8 then .ok .bodyBit0 else if b = 1#8 then .ok .bodyBit1 else .error .notABit
  | _, _ => .error .wrongLength

/-- The place and the bytes of an instruction that has a bit pattern; `none` for a row that has none
(`match` and `mask` null and a `select` field). -/
def encode (c : Config) : Instr → Option (Slot × List Byte)
  | .hdrMagic4 => some (.magic, [c.magic4])
  | .hdrMagic8 => some (.magic, [c.magic8])
  | .hdrBadmagic m => some (.magic, [m])
  | .hdrLen len =>
    some (.length, [len.extractLsb' 0 8, len.extractLsb' 8 8, len.extractLsb' 16 8])
  | .treeSel sel => some (.selector, [sel])
  | .treeNode a l0 l1 off => some (.node a, [descriptorByte l0 l1 off])
  | .treeLeaf sym => some (.leaf, [sym])
  | .bodyWindow b0 b1 b2 b3 => some (.window, [b0, b1, b2, b3])
  | .bodyBit0 => some (.bit, [0#8])
  | .bodyBit1 => some (.bit, [1#8])
  | .bvMake _ _ => none
  | .bvMatches _ _ => none
  | .bvConcat _ _ => none
  | .bvMsb _ => none
  | .bvShr _ _ => none
  | .bvShl _ _ => none
  | .bvDropmsb _ => none
  | .tdDecodenode _ _ _ => none
  | .trieInsert _ _ _ => none
  | .trieFrommap _ => none
  | .descLeaf => none
  | .descRefill => none
  | .descBranch => none
  | .sdStart _ => none
  | .sdReadheader => none
  | .sdReadtree => none
  | .sdCheck => none
  | .sdRefill => none
  | .sdEmit8 _ => none
  | .sdEmit4hi _ => none
  | .sdEmit4lo _ => none
  | .sdReset => none

/-- The place a bare word of the opcode table is read in. A word says nothing of its place, so this is
the model's own convention (DESIGN CHOICE, log 13): 4 bytes are a window, 3 bytes the length field, one byte
whose bits 7..1 are 0 a stream bit (the one row with fixed bits that every byte could meet), any other
byte the magic byte, the first byte of an input. -/
def tableSlot (nbits w : Nat) : Option Slot :=
  if nbits = 32 then some .window
  else if nbits = 24 then some .length
  else if nbits = 1 ∨ nbits = 8 then (if w < 2 then some .bit else some .magic)
  else none

/-- The bytes of a table word: bit 0 is the least significant bit of the first byte. -/
def tableBytes (nbits w : Nat) : List Byte :=
  (List.range ((nbits + 7) / 8)).map fun k => BitVec.ofNat 8 (w / 2 ^ (8 * k))

/-- The instruction the decoder reads from a word of the opcode table, for the parameters
`Config.expected` of `State.reset`. -/
def decodeTableWord (nbits w : Nat) : Option Instr :=
  match tableSlot nbits w with
  | none => none
  | some slot =>
    match decode Config.expected slot (tableBytes nbits w) with
    | .ok i => some i
    | .error _ => none

end Sys2Proof
end

