-- ==== Sys2Proof/Machine/State.lean ====
section
/-! DEFINITION. The state of the block (R20), the ways a step can stop, and the state after reset. -/

namespace Sys2Proof.Machine

/-- The state-machine phases (R23). -/
inductive Phase where
  | idle
  | readHeader
  | readTree
  | bodyCheck
  | bodyDescend
  | done
  | failed
deriving DecidableEq, Repr

/-- What a model records of an error beside its kind (R13 `raise E(info)`, R231 to R234); the block
itself records only the kind, and the host sees none of this (R237). -/
inductive ErrInfo where
  | none
  /-- UnrecognizedFormat: the magic byte (R231) -/
  | magic (m : Byte)
  /-- TruncatedInput of the header (R192) -/
  | header
  /-- CorruptTree (R232) -/
  | noRoot
  /-- CorruptStream: the node, the bit and the pending bits left (R173, R233) -/
  | absentChild (node : Trie) (bit : Bool) (pend : BitValue)
  /-- TruncatedInput of the body: `bodyCur` (R199, R234) -/
  | body (bodyCur : Nat)
deriving DecidableEq, Repr

/-- The value a function of a unit returned (R13 `return x`) when its row runs by itself. The model's own
(log 11): no step of a decode call writes it. -/
inductive Ret where
  | none
  /-- BV.MATCHES, BV.MSB -/
  | bool (b : Bool)
  /-- BV.MAKE, BV.CONCAT, BV.SHR, BV.SHL, BV.DROPMSB, SD.REFILL -/
  | bits (x : BitValue)
  /-- BODY.WINDOW: the window value `W` (R200) -/
  | window (val : BitVec 32)
  /-- TREE.NODE: the address and the leaf flag of child 0 and of child 1 (R145, R146) -/
  | children (a0 : Nat) (l0 : Bool) (a1 : Nat) (l1 : Bool)
  /-- TREE.LEAF, TD.DECODENODE, TRIE.INSERT, TRIE.FROMMAP -/
  | trie (t : Trie)
  /-- TRIE.INSERT, TRIE.FROMMAP: `REJECT` (R157, R250) -/
  | reject
deriving DecidableEq, Repr

/-- One input of the host (R21): what it drives before the block's next step (log 9). -/
inductive HostInput where
  /-- nothing: the block takes its own step -/
  | quiet
  /-- `rst` (R260) -/
  | rst
  /-- `start` with `IN_LEN` (R191) -/
  | start (len : Nat)
  /-- the host writes a byte of IN (R63, R264) -/
  | putIn (a : Nat) (b : Byte)
deriving DecidableEq, Repr

/-- One instruction put straight to a unit (the model's own, log 10): bytes at a place of the input, or an
operation that has no bit pattern. -/
inductive Issue where
  | word (slot : Slot) (bytes : List Byte)
  | op (i : Instr)
deriving DecidableEq, Repr

/-- A byte space: the listed addresses strictly rising; an unlisted address has no value of its own
(logs 7 and 8). -/
abbrev Mem := List Host.Cell

/-- The state of the block and of its two spaces (R20, R28), with the parameters of the instance (R8), the
host's coming inputs (R21) and the model's own fields. -/
structure State where
  /-- the parameters of the instance (R8); no step changes them -/
  cfg : Config
  phase : Phase
  err : ErrKind
  inLen : Nat
  mode : Mode
  declLen : BitVec 24
  treeSel : Byte
  treeEnd : BitVec 10
  root : Trie
  node : Trie
  pend : BitValue
  bodyCur : Nat
  emitted : BitVec 24
  nibFull : Bool
  nibHi : Byte
  /-- the input space IN, the host's (R50) -/
  inp : Mem
  /-- the output space OUT (R51) -/
  out : Mem
  /-- the host's inputs to come, one taken per step (log 9) -/
  inputs : List HostInput
  /-- the model's own: what the last error recorded (log 16) -/
  info : ErrInfo
  /-- the model's own: the value last returned by a function run by itself (log 11) -/
  ret : Ret
  /-- the model's own: one instruction put straight to a unit (log 10) -/
  issue : Option Issue
  /-- the model's own: the host has not changed IN during the running call (R63, log 6) -/
  inStable : Bool
  /-- the model's own: how many free values have been taken (log 5) -/
  draws : Nat
deriving DecidableEq, Repr

/-- Why the machine stops with a fault. -/
inductive Fault where
  /-- Raised by SD.EMIT4HI, SD.EMIT4LO and DESC.LEAF under `WIDE_NIBBLE_POLICY = FAULT` for a symbol above
  0xF: the model fault `WideNibble` of R204. Safe. -/
  | wideNibble
deriving DecidableEq, Repr

/-- Why the machine gives an instruction no meaning. -/
inductive Refusal where
  /-- Raised by exec's arm of an instruction that has no meaning yet. Safe. -/
  | notModelled (mnemonic : String)
  /-- Raised by BV.MAKE, BV.CONCAT, BV.SHR, BV.SHL and BV.DROPMSB when the result is wider than `BV_MAX`, and by
  TRIE.INSERT and TRIE.FROMMAP when a `dropMsb` inside them would form such a result (R120, U10: refused;
  log 25). Safe. -/
  | widerThanBvMax
  /-- Raised by a control step, an HDR, TREE.SEL or BODY.BIT row whose rule's condition does not hold: the
  spec gives the step no effect there (log 12). Safe. -/
  | notEnabled
  /-- Raised by SD.START from IDLE, DONE or FAILED with `IN_LEN > 2^IN_ADDR_W`, which R8 rules out (log 19). Safe. -/
  | inLenTooLong
  /-- Raised by a write of the host at an IN address of more than `IN_ADDR_W` bits, which does not exist (R8,
  log 19). Safe. -/
  | noInAddress
  /-- Raised by the fetch for bytes the decoder refuses (log 10). Safe. -/
  | undecodable (e : DecodeError)
deriving DecidableEq, Repr

/-- The outcome of a step. -/
abbrev Outcome := Host.Outcome State Fault Refusal

/-- The machine right after reset: `phase` is IDLE (R260, R261). Every other register is unspecified by the
spec and holds the value log 4 names (DESIGN CHOICE, unsafe: zero, 6 for `treeEnd`, the empty BitValue, an
internal node with no child, the first name of an enum); nothing is listed in IN and OUT. -/
def State.reset : State :=
  { cfg := Config.expected
    phase := .idle
    err := .unrecognizedFormat
    inLen := 0
    mode := .nibble4
    declLen := 0#24
    treeSel := 0#8
    treeEnd := 6#10
    root := .internal .absent .absent
    node := .internal .absent .absent
    pend := BitValue.empty
    bodyCur := 0
    emitted := 0#24
    nibFull := false
    nibHi := 0#8
    inp := []
    out := []
    inputs := []
    info := .none
    ret := .none
    issue := none
    inStable := true
    draws := 0 }

end Sys2Proof.Machine
end

