-- ==== Sys2Proof/Machine/Ops.lean ====
section
/-! DEFINITION. The shared operations: the byte spaces, reading IN and writing OUT, taking an error and
leaving a terminal phase, reset, and the named register updates every meaning is built from. -/

namespace Sys2Proof.Machine

/-! ## The byte spaces -/

/-- The byte listed at an address, or nothing. -/
def memRead : Mem → Nat → Option Byte
  | [], _ => none
  | c :: m, a => if c.1 = a then some c.2 else memRead m a

/-- Puts a byte at an address and keeps the addresses strictly rising. -/
def memWrite : Mem → Nat → Byte → Mem
  | [], a, b => [(a, b)]
  | c :: m, a, b =>
    if a < c.1 then (a, b) :: c :: m
    else if a = c.1 then (a, b) :: m
    else c :: memWrite m a b

/-- The canonical form: the listed addresses are strictly rising. An unlisted address has no value of its
own, so no entry can equal it. -/
def memWf : Mem → Bool
  | [] => true
  | [_] => true
  | c :: d :: m => decide (c.1 < d.1) && memWf (d :: m)

/-- The size of OUT (R51). -/
abbrev outSize : Nat := 2 ^ 24

/-! ## Reading IN -/

/-- One byte of IN as the block reads it (R13 `MemRead`), at `place` in a walk of the tree region. While
the host keeps IN stable it is the byte the host put there; after the host changed IN during the call it
is a draw (R63, U6, log 6). -/
def readIn (s : State) (place : List Bool) (a : Nat) : Byte :=
  if s.inStable then (memRead s.inp a).getD (Config.inContent a)
  else Config.freeIn s.draws place a

/-- One free value has been taken: the next taker gets its own. -/
def takeDraw (s : State) : State := { s with draws := s.draws + 1 }

/-- Closes a step that read IN: the next such step takes fresh draws. Reading has no other side effect
(R54). -/
def noteRead (s : State) : State := if s.inStable then s else takeDraw s

/-! ## Taking an error, and leaving a terminal phase -/

/-- Error entry (R240): `err <- E` and `phase <- FAILED` in the same step, and no further write. What a model
records beside the kind goes to `info` (R231 to R234). -/
def raise (k : ErrKind) (info : ErrInfo) (s : State) : State :=
  { s with err := k, phase := .failed, info := info }

/-- The phases in which a call runs: `status` is BUSY (R236). -/
def busy : Phase → Bool
  | .idle => false
  | .readHeader => true
  | .readTree => true
  | .bodyCheck => true
  | .bodyDescend => true
  | .done => false
  | .failed => false

/-- The start of a call (R191), the only way out of DONE and FAILED beside reset (R241): `inLen` is latched
and the header is read next. The block reads what the host put in IN before the start (R64). -/
def beginCall (len : Nat) (s : State) : State :=
  { s with inLen := len, phase := .readHeader, inStable := true }

/-- A node: `root` and `node` hold one at every time (R12, R20), so an absent draw stands for a node without
children. -/
def nodeOf : Trie → Trie
  | .absent => .internal .absent .absent
  | .leaf sym => .leaf sym
  | .internal c0 c1 => .internal c0 c1

/-- The width of `bodyCur` (R20, C9). -/
abbrev bodyCurWidth (c : Config) : Nat := max (c.inAddrW + 1) 10

/-- Reset (R260, R261): `phase` is IDLE; every other register is unspecified, which is a draw of its own width
(D12, R20); OUT is neither cleared nor kept, so no byte of it has a value (log 5). IN is the host's and
stays. -/
def resetBlock (s : State) : State :=
  let d := Config.freeReset s.draws
  { s with
    phase := .idle
    err := d.err
    inLen := d.inLen % 2 ^ (s.cfg.inAddrW + 1)
    mode := d.mode
    declLen := d.declLen
    treeSel := d.treeSel
    treeEnd := d.treeEnd
    root := nodeOf d.root
    node := nodeOf d.node
    pend := ⟨d.pendVal.toNat % 2 ^ d.pendWidth.val, d.pendWidth.val⟩
    bodyCur := d.bodyCur % 2 ^ bodyCurWidth s.cfg
    emitted := d.emitted
    nibFull := d.nibFull
    nibHi := d.nibHi
    out := []
    draws := s.draws + 1 }

/-! ## Register updates -/

/-- `phase <- p` (R13). -/
def toPhase (p : Phase) (s : State) : State := { s with phase := p }

/-- `return x` of a function run by itself (R13, log 11). -/
def setRet (r : Ret) (s : State) : State := { s with ret := r }

/-- `declLen <- n` (R193). -/
def setLength (n : BitVec 24) (s : State) : State := { s with declLen := n }

/-- `treeSel <- b` and `treeEnd <- 4 + (treeSel + 1) * 2` (R84, R192, R194). -/
def setSelector (b : Byte) (s : State) : State :=
  { s with treeSel := b, treeEnd := 4#10 + (b.setWidth 10 + 1#10) * 2#10 }

/-- `root <- r` and body init (R195, R196). `nibHi` is not written. -/
def bodyInit (r : Trie) (s : State) : State :=
  { s with
    root := r, bodyCur := s.treeEnd.toNat, pend := BitValue.empty, emitted := 0#24, nibFull := false }

/-- `node <- t`. -/
def setNode (t : Trie) (s : State) : State := { s with node := t }

/-- `pend <- x`. -/
def setPend (x : BitValue) (s : State) : State := { s with pend := x }

/-- `bodyCur <- bodyCur + 4` (R199). -/
def advanceBody (s : State) : State := { s with bodyCur := s.bodyCur + 4 }

/-- `MemWrite(emitted, 1, b)` and `emitted <- emitted + 1` (R201, R203). `emitted` has 24 bits, so every value of it
is an OUT address (R20, R51; log 17). -/
def putByte (b : Byte) (s : State) : State :=
  { s with out := memWrite s.out s.emitted.toNat b, emitted := s.emitted + 1#24 }

/-! ## The host's side -/

/-- The host's inputs still to come (log 9). -/
def keepInputs (rest : List HostInput) (s : State) : State := { s with inputs := rest }

/-- The instruction put straight to a unit is taken (log 10). -/
def takeIssue (s : State) : State := { s with issue := none }

/-- The host writes a byte of IN. During a call this breaks its duty, and what the block reads from then on
are draws (R63, R265). DESIGN CHOICE (log 6): a write at an address at or past `inLen` counts as a change of IN
like any other, though it is no byte of the call's IN (R50); safe, since draws admit the unchanged bytes. -/
def hostPutIn (a : Nat) (b : Byte) (s : State) : State :=
  { s with inp := memWrite s.inp a b, inStable := s.inStable && !busy s.phase }

end Sys2Proof.Machine
end

