-- ==== Sys2Proof/Machine/BitExtractor.lean ====
section
/-! DEFINITION. The variable-width bit extractor (40_bitvalue.md): its seven functions (R111 to R117) and
the meaning of their rows run by themselves. -/

namespace Sys2Proof.Machine

/-- `mask(w) = 2^w - 1` (R10). -/
def mask (w : Nat) : Nat := 2 ^ w - 1

/-- `make(value, width)` (R111). -/
def bvMake (value width : Nat) : BitValue := ⟨value &&& mask width, width⟩

/-- `matches(this, other)` (R112). -/
def bvMatches (pat cand : BitValue) : Bool :=
  if cand.w < pat.w then false else decide (cand.v &&& mask pat.w = pat.v)

/-- `concat(high, low)` (R113). -/
def bvConcat (high low : BitValue) : BitValue := ⟨(high.v <<< low.w) ||| low.v, high.w + low.w⟩

/-- `msb(x)` (R114). -/
def bvMsb (x : BitValue) : Bool := if x.w = 0 then false else x.v.testBit (x.w - 1)

/-- `shiftRight(x, n)` (R115). -/
def bvShr (x : BitValue) (n : Nat) : BitValue :=
  if n ≤ x.w then ⟨x.v >>> n, x.w - n⟩ else BitValue.empty

/-- `shiftLeft(x, n)` (R116). -/
def bvShl (x : BitValue) (n : Nat) : BitValue := ⟨x.v <<< n, x.w + n⟩

/-- `dropMsb(x)` (R117), for `x.w >= 1`. -/
def bvDropMsb (x : BitValue) : BitValue := bvMake x.v (x.w - 1)

/-- An operand as it is constructed: the bits above its width are zeroed (R110). It is the operand itself where
that meets its invariant (log 19). -/
def bvOperand (x : BitValue) : BitValue := bvMake x.v x.w

/-- Some BitValue no wider than `limit`. -/
def bvWithin (limit : Nat) (x : BitValue) : BitValue := bvMake x.v (x.w % (limit + 1))

/-- Returns a BitValue from an operation run by itself, unless it is wider than `BV_MAX` (R120). -/
def returnBits (x : BitValue) (s : State) : Outcome :=
  if x.w ≤ s.cfg.bvMax then .next (setRet (.bits x) s) else .refused .widerThanBvMax

/-- BV.MAKE (R111). -/
def execBvMake (value width : Nat) (s : State) : Outcome := returnBits (bvMake value width) s

/-- BV.MATCHES (R112). -/
def execBvMatches (pat cand : BitValue) (s : State) : Outcome :=
  .next (setRet (.bool (bvMatches (bvOperand pat) (bvOperand cand))) s)

/-- BV.CONCAT (R113). -/
def execBvConcat (high low : BitValue) (s : State) : Outcome :=
  returnBits (bvConcat (bvOperand high) (bvOperand low)) s

/-- BV.MSB (R114). -/
def execBvMsb (x : BitValue) (s : State) : Outcome := .next (setRet (.bool (bvMsb (bvOperand x))) s)

/-- BV.SHR (R115). -/
def execBvShr (x : BitValue) (n : Nat) (s : State) : Outcome := returnBits (bvShr (bvOperand x) n) s

/-- BV.SHL (R116). -/
def execBvShl (x : BitValue) (n : Nat) (s : State) : Outcome := returnBits (bvShl (bvOperand x) n) s

/-- BV.DROPMSB (R117). The rule requires a width of at least 1 and states no result for width 0: there the
operation returns a free BitValue, masked (R118) and no wider than `BV_MAX` (R120; log 24). -/
def execBvDropmsb (x : BitValue) (s : State) : Outcome :=
  if 1 ≤ x.w then returnBits (bvDropMsb (bvOperand x)) s
  else .next (takeDraw (setRet (.bits (bvWithin s.cfg.bvMax (Config.freeBits s.draws))) s))

end Sys2Proof.Machine
end

