-- ==== Sys2Proof/Machine/Flags.lean ====
section
/-! DEFINITION. The flags (R25: `mode`, `nibFull` with the nibble it guards), the status register (R26,
R236) and the other outputs the host sees (R21). -/

namespace Sys2Proof.Machine

/-- `mode <- m`, set once per call by the magic byte (R25, R192). -/
def setMode (m : Mode) (s : State) : State := { s with mode := m }

/-- `nibHi <- (sym << 4)[7:0]` and `nibFull <- 1` (R202). -/
def holdNibble (sym : Byte) (s : State) : State :=
  { s with nibHi := sym <<< 4, nibFull := true }

/-- `nibFull <- 0` (R203). -/
def releaseNibble (s : State) : State := { s with nibFull := false }

/-- The `status` code of an error kind (R230). -/
def errCode : ErrKind → BitVec 3
  | .unrecognizedFormat => 4#3
  | .corruptTree => 5#3
  | .corruptStream => 6#3
  | .truncatedInput => 7#3

/-- The `status` output `CODE[2:0]`, a function of `phase` and `err` (R236). -/
def statusCode (s : State) : BitVec 3 :=
  match s.phase with
  | .idle => 0#3
  | .readHeader => 1#3
  | .readTree => 1#3
  | .bodyCheck => 1#3
  | .bodyDescend => 1#3
  | .done => 2#3
  | .failed => errCode s.err

/-- The `outLen` output: `declLen` in DONE, and not there otherwise (R21, R26). -/
def outLen (s : State) : Option (BitVec 24) :=
  if s.phase = .done then some s.declLen else none

/-- What the host's `k`-th read of OUT returns at an address. In DONE, below `outLen`, it is the byte the call
wrote (R62, R64); in every other case it is any value (R64, R237, R265, U3 to U5, U7, log 8). -/
def hostReadOut (k : Nat) (s : State) (a : Nat) : Byte :=
  if s.phase = .done ∧ a < s.declLen.toNat then (memRead s.out a).getD (Config.freeOut k a)
  else Config.freeOut k a

end Sys2Proof.Machine
end

