-- ==== Sys2Proof/Machine/Emission.lean ====
section
/-! DEFINITION. Symbol emission (R201 to R204): the three ways a leaf step emits its symbol, and the
meaning of their rows. -/

namespace Sys2Proof.Machine

/-- Whether a symbol in 4-bit mode ends the call as a model fault (R204). -/
def wideFault (sym : Byte) (s : State) : Bool :=
  decide (s.cfg.widePolicy = .fault ∧ 0xF < sym.toNat)

/-- 8-bit mode: the symbol is the byte (R201). -/
def emit8 (sym : Byte) (s : State) : Outcome := .next (putByte sym s)

/-- 4-bit mode, first symbol of a pair (R202, R204). -/
def emit4hi (sym : Byte) (s : State) : Outcome :=
  if wideFault sym s then .fault .wideNibble else .next (holdNibble sym s)

/-- 4-bit mode, second symbol of a pair (R203, R204). -/
def emit4lo (sym : Byte) (s : State) : Outcome :=
  if wideFault sym s then .fault .wideNibble else .next (putByte (s.nibHi ||| sym) (releaseNibble s))

/-- `emit(sym)` of DESC.LEAF, by `mode` and `nibFull` (R171, R201 to R203). -/
def emit (sym : Byte) (s : State) : Outcome :=
  match s.mode, s.nibFull with
  | .byte8, _ => emit8 sym s
  | .nibble4, false => emit4hi sym s
  | .nibble4, true => emit4lo sym s

/-- Whether DESC.LEAF is the enabled step, for the symbol `sym` (R171). -/
def leafStep (sym : Byte) (s : State) : Bool :=
  decide (s.phase = .bodyDescend ∧ s.node = .leaf sym)

/-- SD.EMIT8 (R201): its condition is DESC.LEAF with `mode = BYTE8`. -/
def execSdEmit8 (sym : Byte) (s : State) : Outcome :=
  if leafStep sym s ∧ s.mode = .byte8 then emit8 sym s else .refused .notEnabled

/-- SD.EMIT4HI (R202): its condition is DESC.LEAF with `mode = NIBBLE4` and `nibFull = 0`. -/
def execSdEmit4hi (sym : Byte) (s : State) : Outcome :=
  if leafStep sym s ∧ s.mode = .nibble4 ∧ s.nibFull = false then emit4hi sym s
  else .refused .notEnabled

/-- SD.EMIT4LO (R203): its condition is DESC.LEAF with `mode = NIBBLE4` and `nibFull = 1`. -/
def execSdEmit4lo (sym : Byte) (s : State) : Outcome :=
  if leafStep sym s ∧ s.mode = .nibble4 ∧ s.nibFull = true then emit4lo sym s
  else .refused .notEnabled

end Sys2Proof.Machine
end

