-- ==== Sys2Proof/Machine/Operands.lean ====
section
/-! DEFINITION. The operand forms: positions of the header, the window, the region end, the addresses of a
node's children (R89). -/

namespace Sys2Proof.Machine

/-- `a & ~1`: `a` with bit 0 cleared (R10). -/
def evenBase (a : Nat) : Nat := a / 2 * 2

/-- The address of child 0 of the descriptor at `a` with offset `off` (R89, R145). -/
def child0Addr (a : Nat) (off : BitVec 6) : Nat := evenBase a + off.toNat * 2 + 2

/-- The address of child 1: the next byte (R146). -/
def child1Addr (a : Nat) (off : BitVec 6) : Nat := child0Addr a off + 1

/-- The window value of 4 body bytes in the instance's byte order (R56, R200). -/
def windowOf (order : WindowOrder) (b0 b1 b2 b3 : Byte) : BitVec 32 :=
  match order with
  | .big => b0 ++ b1 ++ b2 ++ b3
  | .little => b3 ++ b2 ++ b1 ++ b0

/-- The window at `bodyCur` (R56, R199). -/
def windowAt (s : State) : BitVec 32 :=
  windowOf s.cfg.windowOrder (readIn s [] s.bodyCur) (readIn s [] (s.bodyCur + 1))
    (readIn s [] (s.bodyCur + 2)) (readIn s [] (s.bodyCur + 3))

/-- The effective end of the tree region (R149). -/
def effEnd (s : State) : Nat := min s.treeEnd.toNat s.inLen

/-- The declared length in IN (R55, R193). -/
def headerLength (s : State) : BitVec 24 := lengthOf (readIn s [] 1) (readIn s [] 2) (readIn s [] 3)

end Sys2Proof.Machine
end

