-- ==== Sys2Proof/Machine/TrieStore.lean ====
section
/-! DEFINITION. The tree decoder and the trie store (41_tree_decoder.md). -/

namespace Sys2Proof.Machine

/-- decodeNode (R141) with a bound on the depth. `rd place a` reads the IN byte at `a` from the node at
`place` (the child bits from the start of the walk, last bit first). -/
def decodeNodeFuel (rd : List Bool → Nat → Byte) : Nat → List Bool → Nat → Nat → Bool → Trie
  | 0, _, _, _, _ => .absent
  | fuel + 1, place, a, regionEnd, isLeaf =>
    if regionEnd ≤ a then .absent
    else if isLeaf then .leaf (rd place a)
    else
      .internal
        (decodeNodeFuel rd fuel (false :: place) (child0Addr a (descOff (rd place a))) regionEnd
          (descL0 (rd place a)))
        (decodeNodeFuel rd fuel (true :: place) (child1Addr a (descOff (rd place a))) regionEnd
          (descL1 (rd place a)))

/-- `decodeNode(a, end, isLeaf)` (R141). Child addresses strictly increase and stop at `end`, so the depth
is at most `end - a` (R151). -/
def decodeNode (rd : List Bool → Nat → Byte) (place : List Bool) (a regionEnd : Nat)
    (isLeaf : Bool) : Trie :=
  decodeNodeFuel rd (regionEnd - a) place a regionEnd isLeaf

/-- `insert(t, path, sym)` (R157) by the width of the path; `none` is `REJECT`. -/
def insertBits : Nat → Trie → BitValue → Byte → Option Trie
  | 0, .absent, _, sym => some (.leaf sym)
  | 0, .leaf _, _, _ => none
  | 0, .internal _ _, _, _ => none
  | width + 1, .absent, path, sym =>
    if bvMsb path then
      (insertBits width .absent (bvDropMsb path) sym).map fun r => .internal .absent r
    else (insertBits width .absent (bvDropMsb path) sym).map fun r => .internal r .absent
  | _ + 1, .leaf _, _, _ => none
  | width + 1, .internal c0 c1, path, sym =>
    if bvMsb path then (insertBits width c1 (bvDropMsb path) sym).map fun r => .internal c0 r
    else (insertBits width c0 (bvDropMsb path) sym).map fun r => .internal r c1

/-- `insert(t, path, sym)` (R157): a node or absent, or `none` for `REJECT`. -/
def trieInsert (t : Trie) (path : BitValue) (sym : Byte) : Option Trie :=
  insertBits path.w t path sym

/-- What a construction gives on an extractor of a limited width: a trie, `REJECT` (R157, R250), or no result (R120). -/
inductive Built where
  | trie (t : Trie)
  | reject
  | tooWide
deriving DecidableEq, Repr

/-- Whether an insertion forms a BitValue wider than `limit`: its first `dropMsb`, the widest, takes place unless a
leaf rejects the path at once (R157, R120; log 25). -/
def insertTooWide (limit : Nat) (t : Trie) (path : BitValue) : Bool :=
  match t with
  | .leaf _ => false
  | .absent => decide (limit < path.w - 1)
  | .internal _ _ => decide (limit < path.w - 1)

/-- `insert` (R157) where BitValues are at most `limit` wide (R120). -/
def insertWithin (limit : Nat) (t : Trie) (path : BitValue) (sym : Byte) : Built :=
  if insertTooWide limit t path then .tooWide
  else
    match trieInsert t path sym with
    | some r => .trie r
    | none => .reject

/-- One insertion of the fold; a fold that has ended stays as it ended. -/
def fromMapStep (limit : Nat) (acc : Built) (p : BitValue × Byte) : Built :=
  match acc with
  | .trie t => insertWithin limit t p.1 p.2
  | .reject => .reject
  | .tooWide => .tooWide

/-- `fromMap(m)` (R158): the insertions in order from an absent trie. -/
def trieFromMap (limit : Nat) (m : List (BitValue × Byte)) : Built :=
  m.foldl (fromMapStep limit) (.trie .absent)

/-- Returns what a construction run by itself gives; a result wider than `BV_MAX` is refused (R120). -/
def returnBuilt (r : Built) (s : State) : Outcome :=
  match r with
  | .trie t => .next (setRet (.trie t) s)
  | .reject => .next (setRet .reject s)
  | .tooWide => .refused .widerThanBvMax

/-- TD.DECODENODE (R141), read from IN as it stands. It never raises (R148): a byte at or past `inLen` does not
exist and is treated as outside the region, as R149 treats it (log 18). -/
def execTdDecodenode (a regionEnd : Nat) (isLeaf : Bool) (s : State) : Outcome :=
  .next (noteRead (setRet (.trie (decodeNode (readIn s) [] a (min regionEnd s.inLen) isLeaf)) s))

/-- TRIE.INSERT (R157). -/
def execTrieInsert (t : Trie) (path : BitValue) (sym : Byte) (s : State) : Outcome :=
  returnBuilt (insertWithin s.cfg.bvMax t path sym) s

/-- TRIE.FROMMAP (R158). -/
def execTrieFrommap (m : List (BitValue × Byte)) (s : State) : Outcome :=
  returnBuilt (trieFromMap s.cfg.bvMax m) s

end Sys2Proof.Machine
end

