-- ==== Sys2Proof/Machine/Descent.lean ====
section
/-! DEFINITION. The descent engine (42_trie_descent.md): the three steps of phase BODY_DESCEND, the refill
and the stream bits. -/

namespace Sys2Proof.Machine

/-- Whether `node` is internal in BODY_DESCEND: the condition DESC.REFILL and DESC.BRANCH share. -/
def atInternal (s : State) : Bool :=
  match s.node with
  | .absent => false
  | .leaf _ => false
  | .internal _ _ => decide (s.phase = .bodyDescend)

/-- Whether a refill is due: an internal node and no pending bits (R172, R178). -/
def refillDue (s : State) : Bool := atInternal s && decide (s.pend.w = 0)

/-- Whether a stream bit is to be consumed: an internal node and pending bits (R173). -/
def bitDue (s : State) : Bool := atInternal s && decide (1 ≤ s.pend.w)

/-- Whether the body has no whole window left (R199). -/
def bodyExhausted (s : State) : Bool := decide (s.inLen < s.bodyCur + 4)

/-- What `refill()` returns when it does not raise (R199). -/
def refillBits (s : State) : BitValue := bvMake (windowAt s).toNat 32

/-- `refill()` (R199): raises TruncatedInput, or moves `bodyCur` past the window and hands the window to
`use`. -/
def refill (use : BitValue → State → State) (s : State) : State :=
  if bodyExhausted s then raise .truncatedInput (.body s.bodyCur) s
  else noteRead (use (refillBits s) (advanceBody s))

/-- The child a stream bit selects at an internal node (R92). -/
def childOf (t : Trie) (b : Bool) : Trie :=
  match t with
  | .absent => .absent
  | .leaf _ => .absent
  | .internal c0 c1 => if b then c1 else c0

/-- Consumes the stream bit `b` and moves to the child it selects, or raises CorruptStream (R173, R174). -/
def branch (b : Bool) (s : State) : State :=
  let rest := bvDropMsb s.pend
  match childOf s.node b with
  | .absent => raise .corruptStream (.absentChild s.node b rest) (setPend rest s)
  | .leaf sym => setNode (.leaf sym) (setPend rest s)
  | .internal c0 c1 => setNode (.internal c0 c1) (setPend rest s)

/-- BODY.BIT0 (R92): the stream bit 0 at an internal node takes child 0 (log 22). -/
def execBodyBit0 (s : State) : Outcome :=
  if bitDue s ∧ bvMsb s.pend = false then .next (branch false s) else .refused .notEnabled

/-- BODY.BIT1 (R92): the stream bit 1 at an internal node takes child 1 (log 22). -/
def execBodyBit1 (s : State) : Outcome :=
  if bitDue s ∧ bvMsb s.pend = true then .next (branch true s) else .refused .notEnabled

/-- DESC.LEAF (R171). -/
def execDescLeaf (s : State) : Outcome :=
  match s.node with
  | .absent => .refused .notEnabled
  | .internal _ _ => .refused .notEnabled
  | .leaf sym =>
    if leafStep sym s then
      match emit sym s with
      | .next t => .next (toPhase .bodyCheck t)
      | .fault f => .fault f
      | .refused r => .refused r
    else .refused .notEnabled

/-- DESC.REFILL (R172). -/
def execDescRefill (s : State) : Outcome :=
  if refillDue s then .next (refill (fun win t => setPend (bvConcat t.pend win) t) s)
  else .refused .notEnabled

/-- DESC.BRANCH (R173). -/
def execDescBranch (s : State) : Outcome :=
  if bitDue s then .next (branch (bvMsb s.pend) s) else .refused .notEnabled

/-- SD.REFILL (R199) by itself, where DESC.REFILL would call it: returns the window. -/
def execSdRefill (s : State) : Outcome :=
  if refillDue s then .next (refill (fun win t => setRet (.bits win) t) s)
  else .refused .notEnabled

end Sys2Proof.Machine
end

