-- ==== Sys2Proof/Machine/Formats.lean ====
section
/-! DEFINITION. The meanings of the byte formats of the header and the tree (30_encoding.md). The header
rows and TREE.SEL are parts of SD.READHEADER: run by themselves in READ_HEADER they do their part and
leave `phase` to the whole step (log 20). -/

namespace Sys2Proof.Machine

/-- A part of SD.READHEADER is enabled in READ_HEADER only (R192, log 12). -/
def inHeader (s : State) (t : State) : Outcome :=
  if s.phase = .readHeader then .next t else .refused .notEnabled

/-- HDR.MAGIC4 (R82): `mode <- NIBBLE4`. -/
def execHdrMagic4 (s : State) : Outcome := inHeader s (setMode .nibble4 s)

/-- HDR.MAGIC8 (R82): `mode <- BYTE8`. -/
def execHdrMagic8 (s : State) : Outcome := inHeader s (setMode .byte8 s)

/-- HDR.BADMAGIC (R82, R231): raises UnrecognizedFormat. The decoder gives this row no magic value; put with one, the
byte selects the mode that R82 gives it (log 20). -/
def execHdrBadmagic (m : Byte) (s : State) : Outcome :=
  match magicMode s.cfg m with
  | none => inHeader s (raise .unrecognizedFormat (.magic m) s)
  | some mode => inHeader s (setMode mode s)

/-- HDR.LEN (R83, R193): `declLen <- LEN`. -/
def execHdrLen (len : BitVec 24) (s : State) : Outcome := inHeader s (setLength len s)

/-- TREE.SEL (R84, R194): `treeSel <- S`, `treeEnd <- 4 + (S + 1) * 2`. -/
def execTreeSel (sel : Byte) (s : State) : Outcome := inHeader s (setSelector sel s)

/-- TREE.NODE (R86, R145, R146): the descriptor at `a` names its two children, each by its address and its
leaf flag (R155, log 21). -/
def execTreeNode (a : Nat) (l0 l1 : Bool) (off : BitVec 6) (s : State) : Outcome :=
  .next (setRet (.children (child0Addr a off) l0 (child1Addr a off) l1) s)

/-- TREE.LEAF (R87, R143): the byte is the symbol. -/
def execTreeLeaf (sym : Byte) (s : State) : Outcome := .next (setRet (.trie (.leaf sym)) s)

/-- BODY.WINDOW (R90, R200): the window value of 4 body bytes. R90 gives the format only as what SD.REFILL reads.
DESIGN CHOICE (log 26): run by itself the row returns its value in any phase and moves neither `bodyCur` nor
`pend`. -/
def execBodyWindow (b0 b1 b2 b3 : Byte) (s : State) : Outcome :=
  .next (setRet (.window (windowOf s.cfg.windowOrder b0 b1 b2 b3)) s)

end Sys2Proof.Machine
end

