-- ==== Sys2Proof/Machine/Stream.lean ====
section
/-! DEFINITION. The stream decoder's control steps (43_stream_decoder.md, R260). -/

namespace Sys2Proof.Machine

/-- SD.START (R191). While a call runs it is ignored, whatever its `IN_LEN` (D13). An `IN_LEN` past 2^IN_ADDR_W is
ruled out by R8 (log 19). -/
def execSdStart (len : Nat) (s : State) : Outcome :=
  if busy s.phase then .next s
  else if len ≤ 2 ^ s.cfg.inAddrW then .next (beginCall len s)
  else .refused .inLenTooLong

/-- The header after a good magic byte (R192 to R194): the length of IN is checked, then `declLen`,
`treeSel` and `treeEnd` are read. -/
def readFields (s : State) : State :=
  if s.inLen < 5 then raise .truncatedInput .header s
  else toPhase .readTree (setSelector (readIn s [] 4) (setLength (headerLength s) s))

/-- The effect of SD.READHEADER (R192): the magic byte is checked before the length of the rest. -/
def readHeader (s : State) : State :=
  if s.inLen < 1 then raise .truncatedInput .header s
  else
    match magicMode s.cfg (readIn s [] 0) with
    | some m => noteRead (readFields (setMode m s))
    | none => noteRead (raise .unrecognizedFormat (.magic (readIn s [] 0)) s)

/-- SD.READHEADER (R192). -/
def execSdReadheader (s : State) : Outcome :=
  if s.phase = .readHeader then .next (readHeader s) else .refused .notEnabled

/-- The root of the call's trie: the descriptor at address 5, read as internal (R150). -/
def decodeRoot (s : State) : Trie := decodeNode (readIn s) [] 5 (effEnd s) false

/-- The effect of SD.READTREE (R195, R196). -/
def readTree (s : State) : State :=
  match decodeRoot s with
  | .absent => noteRead (raise .corruptTree .noRoot s)
  | .leaf sym => noteRead (toPhase .bodyCheck (bodyInit (.leaf sym) s))
  | .internal c0 c1 => noteRead (toPhase .bodyCheck (bodyInit (.internal c0 c1) s))

/-- SD.READTREE (R195). -/
def execSdReadtree (s : State) : Outcome :=
  if s.phase = .readTree then .next (readTree s) else .refused .notEnabled

/-- The effect of SD.CHECK (R197, R205). -/
def checkDone (s : State) : State :=
  if s.emitted = s.declLen then toPhase .done s
  else toPhase .bodyDescend (setNode s.root s)

/-- SD.CHECK (R197). -/
def execSdCheck (s : State) : Outcome :=
  if s.phase = .bodyCheck then .next (checkDone s) else .refused .notEnabled

/-- SD.RESET (R260), in any phase. -/
def execSdReset (s : State) : Outcome := .next (resetBlock s)

end Sys2Proof.Machine
end

