-- ==== Sys2Proof/Machine/Dispatch.lean ====
section
/-! DEFINITION. The meaning of every instruction: one arm per row of the opcode table. -/

namespace Sys2Proof.Machine

def exec (i : Instr) (s : State) : Host.Outcome State Fault Refusal :=
  match i with
  | .hdrMagic4 => Sys2Proof.Machine.execHdrMagic4 s
  | .hdrMagic8 => Sys2Proof.Machine.execHdrMagic8 s
  | .hdrBadmagic m => Sys2Proof.Machine.execHdrBadmagic m s
  | .hdrLen len => Sys2Proof.Machine.execHdrLen len s
  | .treeSel sel => Sys2Proof.Machine.execTreeSel sel s
  | .treeNode a l0 l1 off => Sys2Proof.Machine.execTreeNode a l0 l1 off s
  | .treeLeaf sym => Sys2Proof.Machine.execTreeLeaf sym s
  | .bodyWindow b0 b1 b2 b3 => Sys2Proof.Machine.execBodyWindow b0 b1 b2 b3 s
  | .bodyBit0 => Sys2Proof.Machine.execBodyBit0 s
  | .bodyBit1 => Sys2Proof.Machine.execBodyBit1 s
  | .bvMake value width => Sys2Proof.Machine.execBvMake value width s
  | .bvMatches pat cand => Sys2Proof.Machine.execBvMatches pat cand s
  | .bvConcat high low => Sys2Proof.Machine.execBvConcat high low s
  | .bvMsb x => Sys2Proof.Machine.execBvMsb x s
  | .bvShr x n => Sys2Proof.Machine.execBvShr x n s
  | .bvShl x n => Sys2Proof.Machine.execBvShl x n s
  | .bvDropmsb x => Sys2Proof.Machine.execBvDropmsb x s
  | .tdDecodenode a regionEnd isLeaf => Sys2Proof.Machine.execTdDecodenode a regionEnd isLeaf s
  | .trieInsert t path sym => Sys2Proof.Machine.execTrieInsert t path sym s
  | .trieFrommap m => Sys2Proof.Machine.execTrieFrommap m s
  | .descLeaf => Sys2Proof.Machine.execDescLeaf s
  | .descRefill => Sys2Proof.Machine.execDescRefill s
  | .descBranch => Sys2Proof.Machine.execDescBranch s
  | .sdStart len => Sys2Proof.Machine.execSdStart len s
  | .sdReadheader => Sys2Proof.Machine.execSdReadheader s
  | .sdReadtree => Sys2Proof.Machine.execSdReadtree s
  | .sdCheck => Sys2Proof.Machine.execSdCheck s
  | .sdRefill => Sys2Proof.Machine.execSdRefill s
  | .sdEmit8 sym => Sys2Proof.Machine.execSdEmit8 sym s
  | .sdEmit4hi sym => Sys2Proof.Machine.execSdEmit4hi sym s
  | .sdEmit4lo sym => Sys2Proof.Machine.execSdEmit4lo sym s
  | .sdReset => Sys2Proof.Machine.execSdReset s

end Sys2Proof.Machine
end

