-- ==== Sys2Proof/Machine/Select.lean ====
section
/-! DEFINITION. What the next step runs. The block fetches no instructions (R24, R68): its own step follows
from `phase`, the kind of `node` and `pend.w` (R190, 42_trie_descent.md section 2); before it comes one
instruction put straight to a unit (log 10), or one input of the host (log 9). -/

namespace Sys2Proof.Machine

/-- What a step is to do: run an instruction in a state, or answer at once. -/
inductive Fetched where
  | run (i : Instr) (s : State)
  | answer (o : Outcome)

/-- The one enabled step of the block (R190); `none` where it takes none of its own. `none` in BODY_DESCEND
only when `node` is absent, which no call reaches. -/
def ownStep (s : State) : Option Instr :=
  match s.phase with
  | .idle => none
  | .readHeader => some .sdReadheader
  | .readTree => some .sdReadtree
  | .bodyCheck => some .sdCheck
  | .bodyDescend =>
    match s.node with
    | .absent => none
    | .leaf _ => some .descLeaf
    | .internal _ _ => if s.pend.w = 0 then some .descRefill else some .descBranch
  | .done => none
  | .failed => none

/-- The block's own step; IDLE, DONE and FAILED are quiet until the host moves them (R190, R249, log 15). -/
def fetchOwn (s : State) : Fetched :=
  match ownStep s with
  | some i => .run i s
  | none => if busy s.phase then .answer (.refused .notEnabled) else .answer (.next s)

/-- One input of the host, already taken from the list. -/
def fetchInput (e : HostInput) (s : State) : Fetched :=
  match e with
  | .quiet => fetchOwn s
  | .rst => .run .sdReset s
  | .start len => .run (.sdStart len) s
  | .putIn a b =>
    if a < 2 ^ s.cfg.inAddrW then .answer (.next (hostPutIn a b s)) else .answer (.refused .noInAddress)

/-- An instruction put straight to a unit, already taken from its field: bytes are decoded by their place. -/
def fetchIssue (q : Issue) (s : State) : Fetched :=
  match q with
  | .op i => .run i s
  | .word slot bytes =>
    match decode s.cfg slot bytes with
    | .ok i => .run i s
    | .error e => .answer (.refused (.undecodable e))

/-- What the next step does. -/
def fetch (s : State) : Fetched :=
  match s.issue, s.inputs with
  | some q, _ => fetchIssue q (takeIssue s)
  | none, e :: rest => fetchInput e (keepInputs rest s)
  | none, [] => fetchOwn s

/-- Puts bytes at a place for the very next step, with what that place needs: header bytes are read in
READ_HEADER, a stream bit is the one pending bit at an internal node in BODY_DESCEND (log 13). -/
def placeWord (slot : Slot) (bytes : List Byte) (s : State) : State :=
  let s' := { s with issue := some (.word slot bytes) }
  match slot with
  | .magic => toPhase .readHeader s'
  | .length => toPhase .readHeader s'
  | .selector => toPhase .readHeader s'
  | .node _ => s'
  | .leaf => s'
  | .window => s'
  | .bit =>
    toPhase .bodyDescend
      (setNode (.internal (.leaf 0#8) (.leaf 0#8))
        (setPend ⟨(bytes.headD 0#8).toNat % 2, 1⟩ s'))

/-- Puts a word of the opcode table where the next step takes its instruction. -/
def placeTableWord (nbits w : Nat) (s : State) : State :=
  match tableSlot nbits w with
  | some slot => placeWord slot (tableBytes nbits w) s
  | none => s

end Sys2Proof.Machine
end

