-- ==== Sys2Proof/Machine/Step.lean ====
section
/-! DEFINITION. One step of the machine: one atomic transition (R266, D11). -/

namespace Sys2Proof.Machine

/-- Runs what was fetched. -/
def perform : Fetched → Outcome
  | .run i t => exec i t
  | .answer o => o

/-- One step: run what `fetch` selects. -/
def step (s : State) : Host.Outcome State Fault Refusal := perform (fetch s)

/-- `s` with a word of the opcode table put where the next step takes its instruction (log 13). -/
def State.withFetchWord (s : State) (nbits w : Nat) : State := placeTableWord nbits w s

end Sys2Proof.Machine
end

