-- ==== Sys2Proof/Machine/Reference.lean ====
section
/-! DEFINITION. The reference functions the spec gives beside the step machine: the walk of a path in a
trie (R140), the descent (R170), the in-place walk of the packed region (R155), and a whole call as one
function (R206). The machine does not call them; claims compare it with them. `rd a` is `IN[a]`. -/

namespace Sys2Proof.Machine

/-- The node a bit path leads to from a node; `absent` where there is none (R93, R140). -/
def follow : Trie → List Bool → Trie
  | t, [] => t
  | .absent, _ :: _ => .absent
  | .leaf _, _ :: _ => .absent
  | .internal c0 c1, b :: path => if b then follow c1 path else follow c0 path

/-- The bits of a BitValue in stream order, most significant first (R57, R110). -/
def pathBits (x : BitValue) : List Bool := (List.range x.w).map fun k => x.v.testBit (x.w - 1 - k)

/-- Where an insertion is rejected (R157): a node already stands at the path, or a leaf on the way. -/
def Blocked (t : Trie) (path : List Bool) : Prop :=
  follow t path ≠ .absent ∨ ∃ k, k < path.length ∧ ∃ x, follow t (path.take k) = .leaf x

/-- No path of the list is a prefix of another one's or equal to it (R158). -/
def PrefixFree (m : List (BitValue × Byte)) : Prop :=
  m.Pairwise fun p q => ¬ pathBits p.1 <+: pathBits q.1 ∧ ¬ pathBits q.1 <+: pathBits p.1

/-- The bits of `windows` consecutive windows from address `cur`, in stream order (R57, R90, R91). -/
def windowBits (c : Config) (rd : Nat → Byte) : Nat → Nat → List Bool
  | 0, _ => []
  | windows + 1, cur =>
    ((List.range 32).map fun k =>
      (windowOf c.windowOrder (rd cur) (rd (cur + 1)) (rd (cur + 2)) (rd (cur + 3))).getLsbD (31 - k)) ++
    windowBits c rd windows (cur + 4)

/-- What a descent gives: a symbol, the pending bits left and the next window's address; or an error. -/
inductive Descended where
  | symbol (sym : Byte) (p : BitValue) (cur : Nat)
  | error (k : ErrKind)
deriving DecidableEq, Repr

/-- The pending bits with a fresh window if there are none (R170, R199); `none` is TruncatedInput. -/
def pullBits (c : Config) (rd : Nat → Byte) (len : Nat) (p : BitValue) (cur : Nat) :
    Option (BitValue × Nat) :=
  if p.w = 0 then
    if len < cur + 4 then none
    else
      some (bvConcat p (bvMake (windowOf c.windowOrder (rd cur) (rd (cur + 1)) (rd (cur + 2))
        (rd (cur + 3))).toNat 32), cur + 4)
  else some (p, cur)

/-- `descend(n, p)` (R170); an absent node is the absent child the last bit selected. -/
def descend (c : Config) (rd : Nat → Byte) (len : Nat) : Trie → BitValue → Nat → Descended
  | .absent, _, _ => .error .corruptStream
  | .leaf sym, p, cur => .symbol sym p cur
  | .internal c0 c1, p, cur =>
    match pullBits c rd len p cur with
    | none => .error .truncatedInput
    | some (q, cur') =>
      if bvMsb q then descend c rd len c1 (bvDropMsb q) cur'
      else descend c rd len c0 (bvDropMsb q) cur'

/-- The descent that keeps (address, leaf flag) into IN and builds no trie (R155), for a region that ends at
`regionEnd`; the first argument bounds the depth. -/
def descendInPlaceFuel (c : Config) (rd : Nat → Byte) (len regionEnd : Nat) :
    Nat → Nat → Bool → BitValue → Nat → Descended
  | 0, _, _, _, _ => .error .corruptStream
  | fuel + 1, a, isLeaf, p, cur =>
    if regionEnd ≤ a then .error .corruptStream
    else if isLeaf then .symbol (rd a) p cur
    else
      match pullBits c rd len p cur with
      | none => .error .truncatedInput
      | some (q, cur') =>
        if bvMsb q then
          descendInPlaceFuel c rd len regionEnd fuel (child1Addr a (descOff (rd a))) (descL1 (rd a))
            (bvDropMsb q) cur'
        else
          descendInPlaceFuel c rd len regionEnd fuel (child0Addr a (descOff (rd a))) (descL0 (rd a))
            (bvDropMsb q) cur'

/-- The in-place descent from the pair `(a, isLeaf)` (R155). -/
def descendInPlace (c : Config) (rd : Nat → Byte) (len regionEnd a : Nat) (isLeaf : Bool)
    (p : BitValue) (cur : Nat) : Descended :=
  descendInPlaceFuel c rd len regionEnd (regionEnd - a) a isLeaf p cur

/-- The result of a whole call (R206); `wideNibble` is the model fault of R204. -/
inductive CallResult where
  | ok (bytes : List Byte)
  | err (k : ErrKind)
  | wideNibble
deriving DecidableEq, Repr

/-- The loop of R206, `while length(out) < n`; `hold` is the held first nibble. A call decodes at most `2 * n`
symbols, which is the first argument at the start. -/
def decodeSymbols (c : Config) (rd : Nat → Byte) (len : Nat) (root : Trie) (n : Nat) (m : Mode) :
    Nat → BitValue → Nat → List Byte → Option Byte → CallResult
  | 0, _, _, out, _ => .ok out
  | fuel + 1, p, cur, out, hold =>
    if out.length = n then .ok out
    else
      match descend c rd len root p cur with
      | .error k => .err k
      | .symbol sym q cur' =>
        match m, hold with
        | .byte8, _ => decodeSymbols c rd len root n m fuel q cur' (out ++ [sym]) hold
        | .nibble4, none =>
          if c.widePolicy = .fault ∧ 0xF < sym.toNat then .wideNibble
          else decodeSymbols c rd len root n m fuel q cur' out (some (sym <<< 4))
        | .nibble4, some hi =>
          if c.widePolicy = .fault ∧ 0xF < sym.toNat then .wideNibble
          else decodeSymbols c rd len root n m fuel q cur' (out ++ [hi ||| sym]) none

/-- `decode(IN, L)` (R206). -/
def decodeCall (c : Config) (rd : Nat → Byte) (len : Nat) : CallResult :=
  if len < 1 then .err .truncatedInput
  else
    match magicMode c (rd 0) with
    | none => .err .unrecognizedFormat
    | some m =>
      if len < 5 then .err .truncatedInput
      else
        let n := (lengthOf (rd 1) (rd 2) (rd 3)).toNat
        let te := 4 + ((rd 4).toNat + 1) * 2
        match decodeNode (fun _ a => rd a) [] 5 (min te len) false with
        | .absent => .err .corruptTree
        | .leaf sym => decodeSymbols c rd len (.leaf sym) n m (2 * n) BitValue.empty te [] none
        | .internal c0 c1 =>
          decodeSymbols c rd len (.internal c0 c1) n m (2 * n) BitValue.empty te [] none

end Sys2Proof.Machine
end

