-- ==== Sys2Proof/Safety.lean ====
section
/-! DEFINITION. What counts as a safe state and a safe run, in the terms the claims use: runs of steps, a
call left alone by its host, the invariant of a running block (R30, R31), the bound of R207. -/

namespace Sys2Proof.Machine

/-- `k` steps; the first fault or refusal ends the run. -/
def run : Nat → State → Outcome
  | 0, s => .next s
  | k + 1, s =>
    match step s with
    | .next t => run k t
    | .fault f => .fault f
    | .refused r => .refused r

/-- No input of the host is coming and nothing is put straight to a unit: the block is left to itself. -/
def Undisturbed (s : State) : Prop := s.issue = none ∧ s.inputs = []

/-- The two ends of a call (R190). -/
def Terminal (s : State) : Prop := s.phase = .done ∨ s.phase = .failed

/-- The phases after a good header (R192), less FAILED. -/
def pastHeader : Phase → Bool
  | .idle => false
  | .readHeader => false
  | .readTree => true
  | .bodyCheck => true
  | .bodyDescend => true
  | .done => true
  | .failed => false

/-- The phases after body init (R196), less FAILED. -/
def inBody : Phase → Bool
  | .idle => false
  | .readHeader => false
  | .readTree => false
  | .bodyCheck => true
  | .bodyDescend => true
  | .done => true
  | .failed => false

/-- What the registers hold in every phase, the widths R20 gives those that are natural numbers here: `inLen`,
`bodyCur`, the value and the width of `pend` (R121), and a node in `root` and `node` (R12). -/
structure RegistersHold (s : State) : Prop where
  inLenWidth : s.inLen < 2 ^ (s.cfg.inAddrW + 1)
  bodyCurWidth : s.bodyCur < 2 ^ Machine.bodyCurWidth s.cfg
  pendWidth : s.pend.w ≤ 32
  pendOk : s.pend.ok
  rootPresent : s.root ≠ .absent
  nodePresent : s.node ≠ .absent

/-- What holds after body init until the call ends (R30), with what it needs: IN holds the root (R150), the
root is internal and no node is deeper than `treeSel` (R153), and OUT holds what was emitted (R65). -/
structure BodyInv (s : State) : Prop where
  rootInside : 6 ≤ s.inLen
  emittedLe : s.emitted.toNat ≤ s.declLen.toNat
  cursorAligned : ∃ refills, s.bodyCur = s.treeEnd.toNat + 4 * refills
  cursorInside : s.bodyCur = s.treeEnd.toNat ∨ s.bodyCur ≤ s.inLen
  byteMode : s.mode = .byte8 → s.nibFull = false
  rootInternal : ∃ c0 c1, s.root = .internal c0 c1
  rootDepth : ∀ path, follow s.root path ≠ .absent → path.length ≤ s.treeSel.toNat
  outWritten : ∀ a, a < s.emitted.toNat → (memRead s.out a).isSome = true

/-- The invariant of the block between steps (R30, R31), of a machine driven only by its host: nothing is put
straight to a unit. -/
structure BlockInv (s : State) : Prop where
  cfgOk : s.cfg.ok
  inWf : memWf s.inp = true
  outWf : memWf s.out = true
  inInside : ∀ a, (memRead s.inp a).isSome = true → a < 2 ^ s.cfg.inAddrW
  outInside : ∀ a, (memRead s.out a).isSome = true → a < outSize
  noIssue : s.issue = none
  registers : RegistersHold s
  lenFits : busy s.phase = true ∨ s.phase = .done → s.inLen ≤ 2 ^ s.cfg.inAddrW
  header : pastHeader s.phase = true → 5 ≤ s.inLen ∧ s.treeEnd.toNat = 6 + 2 * s.treeSel.toNat
  body : inBody s.phase = true → BodyInv s
  builtFromIn : s.phase = .bodyCheck ∨ s.phase = .bodyDescend → s.inStable = true →
    s.root = decodeRoot s
  halfByte : s.phase = .bodyCheck → s.nibFull = true → s.emitted.toNat < s.declLen.toNat
  descending : s.phase = .bodyDescend →
    s.emitted.toNat < s.declLen.toNat ∧ ∃ path, follow s.root path = s.node
  finished : s.phase = .done → s.emitted = s.declLen ∧ s.nibFull = false

/-- The number of symbols a call decodes (R193, R207): `declLen`, or twice that in 4-bit mode. -/
def symbolCount (s : State) : Nat :=
  match s.mode with
  | .byte8 => s.declLen.toNat
  | .nibble4 => 2 * s.declLen.toNat

/-- The bound of R207 on the steps from READ_HEADER to the end of the call. -/
def stepBound (s : State) : Nat :=
  2 + symbolCount s * (2 + s.treeSel.toNat + (s.treeSel.toNat + 31) / 32) + 1

end Sys2Proof.Machine
end

