-- ==== Sys2Proof/Certificates/Slice0/Obligations.lean ====
section
/-! DEFINITION. The statements about the model, for the provers. Where a statement gives a next state it gives
all of it, written as the state before with the changed fields, so that it is the instruction's frame too. -/

open Sys2Proof Sys2Proof.Machine

/-! ## Encoding -/

/-- R80 to R92: every well-formed instruction that has a bit pattern decodes from its own bytes, at every value
of every field. -/
def Obligations.EncodeThenDecodeGivesTheInstruction : Prop :=
  ∀ (c : Config) (i : Instr) (slot : Slot) (bytes : List Byte),
    c.ok → WellFormed c i = true → encode c i = some (slot, bytes) → decode c slot bytes = .ok i

/-- R88, R97: bytes at a place stand for one instruction, whose encoding they are: no bit is dropped. -/
def Obligations.DecodeThenEncodeGivesTheBytes : Prop :=
  ∀ (c : Config) (slot : Slot) (bytes : List Byte) (i : Instr),
    decode c slot bytes = .ok i → encode c i = some (slot, bytes)

/-- R80, R86, R87, R92: bytes decode exactly when they are as many as the format has and, for a stream bit, are 0
or 1; so every byte value is a descriptor, a leaf, a selector and a magic byte (good or bad). -/
def Obligations.DecoderAcceptsExactlyTheFormats : Prop :=
  ∀ (c : Config) (slot : Slot) (bytes : List Byte),
    (∃ i, decode c slot bytes = .ok i) ↔
      bytes.length = slotLength slot ∧ (slot = .bit → bytes = [0#8] ∨ bytes = [1#8])

/-- Words written out from R81 to R92: `D3` is L0 = 1, L1 = 1, OFF = 19; the length field is little-endian. -/
def Obligations.WrittenWordsDecode : Prop :=
  decode Config.expected .magic [0x24#8] = .ok .hdrMagic4 ∧
  decode Config.expected .magic [0x28#8] = .ok .hdrMagic8 ∧
  decode Config.expected .magic [0x29#8] = .ok (.hdrBadmagic 0x29#8) ∧
  decode Config.expected .length [0x01#8, 0x02#8, 0x03#8] = .ok (.hdrLen 0x030201#24) ∧
  decode Config.expected .selector [0xFF#8] = .ok (.treeSel 0xFF#8) ∧
  decode Config.expected (.node 7) [0xD3#8] = .ok (.treeNode 7 true true 19#6) ∧
  decode Config.expected (.node 6) [0x80#8] = .ok (.treeNode 6 true false 0#6) ∧
  decode Config.expected .leaf [0x41#8] = .ok (.treeLeaf 0x41#8) ∧
  decode Config.expected .bit [0#8] = .ok .bodyBit0 ∧
  decode Config.expected .bit [1#8] = .ok .bodyBit1

/-- A word of the opcode table put in by `withFetchWord` is what the very next step runs (log 13). -/
def Obligations.TableWordIsRunByTheNextStep : Prop :=
  ∀ (s : State) (nbits w : Nat) (i : Instr),
    s.cfg = Config.expected → decodeTableWord nbits w = some i →
    step (s.withFetchWord nbits w) = exec i { s.withFetchWord nbits w with issue := none }

/-! ## What a step runs -/

/-- A step runs the decoded instruction: bytes put straight to a unit that decode to an instruction are run as that
instruction, and so is an operation that has no bit pattern (log 10); bytes that do not decode are refused by
name. -/
def Obligations.StepRunsTheIssuedInstruction : Prop :=
  ∀ s : State,
    (∀ slot bytes i, s.issue = some (.word slot bytes) → decode s.cfg slot bytes = .ok i →
      step s = exec i { s with issue := none }) ∧
    (∀ slot bytes e, s.issue = some (.word slot bytes) → decode s.cfg slot bytes = .error e →
      step s = .refused (.undecodable e)) ∧
    (∀ i, s.issue = some (.op i) → step s = exec i { s with issue := none })

/-- R21, R191, R260, R63: a step takes one input of the host: `rst` runs SD.RESET, `start` runs SD.START, a write of
IN changes IN, and a quiet input leaves the block its own step (log 9). A write at an address that does not
exist is refused (log 19). -/
def Obligations.StepTakesTheHostsInput : Prop :=
  ∀ (s : State) (e : HostInput) (rest : List HostInput),
    s.issue = none → s.inputs = e :: rest →
    (e = .rst → step s = exec .sdReset { s with inputs := rest }) ∧
    (∀ len, e = .start len → step s = exec (.sdStart len) { s with inputs := rest }) ∧
    (∀ a b, e = .putIn a b → a < 2 ^ s.cfg.inAddrW →
      step s = .next { s with inputs := rest, inp := memWrite s.inp a b,
                              inStable := s.inStable && !busy s.phase }) ∧
    (∀ a b, e = .putIn a b → 2 ^ s.cfg.inAddrW ≤ a → step s = .refused .noInAddress) ∧
    (e = .quiet → ∀ i, ownStep s = some i → step s = exec i { s with inputs := rest })

/-- R190: left to itself, the block runs the one step its phase, the kind of `node` and `pend.w` enable, and is
quiet in IDLE, DONE and FAILED. -/
def Obligations.StepRunsTheEnabledStep : Prop :=
  ∀ s : State, Undisturbed s →
    (s.phase = .readHeader → step s = exec .sdReadheader s) ∧
    (s.phase = .readTree → step s = exec .sdReadtree s) ∧
    (s.phase = .bodyCheck → step s = exec .sdCheck s) ∧
    (∀ sym, s.phase = .bodyDescend → s.node = .leaf sym → step s = exec .descLeaf s) ∧
    (∀ c0 c1, s.phase = .bodyDescend → s.node = .internal c0 c1 → s.pend.w = 0 →
      step s = exec .descRefill s) ∧
    (∀ c0 c1, s.phase = .bodyDescend → s.node = .internal c0 c1 → 1 ≤ s.pend.w →
      step s = exec .descBranch s) ∧
    (s.phase = .idle ∨ s.phase = .done ∨ s.phase = .failed → step s = .next s)

/-- R190: where a step of a block left to itself may take `phase`, for every state. -/
def Obligations.PhasesFollowTheTransitionTable : Prop :=
  ∀ s t : State, Undisturbed s → step s = .next t →
    match s.phase with
    | .idle => t.phase = .idle
    | .readHeader => t.phase = .readTree ∨ t.phase = .failed
    | .readTree => t.phase = .bodyCheck ∨ t.phase = .failed
    | .bodyCheck => t.phase = if s.emitted = s.declLen then .done else .bodyDescend
    | .bodyDescend => t.phase = .bodyCheck ∨ t.phase = .bodyDescend ∨ t.phase = .failed
    | .done => t.phase = .done
    | .failed => t.phase = .failed

/-! ## The bit extractor -/

/-- R111: `make(value, width)`. -/
def Obligations.MakeMasksToTheWidth : Prop :=
  ∀ (value width : Nat) (s : State), width ≤ s.cfg.bvMax →
    exec (.bvMake value width) s = .next { s with ret := .bits ⟨value % 2 ^ width, width⟩ }

/-- R113: `concat(high, low)`; for BitValues, `or` is the sum of disjoint bits. -/
def Obligations.ConcatPutsTheHighBitsAbove : Prop :=
  ∀ (high low : BitValue) (s : State), high.ok → low.ok → high.w + low.w ≤ s.cfg.bvMax →
    exec (.bvConcat high low) s =
      .next { s with ret := .bits ⟨high.v * 2 ^ low.w + low.v, high.w + low.w⟩ }

/-- R112, R114: `msb` is bit `w - 1`, false for width 0; `matches` compares the low bits of a candidate that is
wide enough (the spec's own reading, D20). -/
def Obligations.MsbAndMatchesReturnTheirBit : Prop :=
  ∀ (x y : BitValue) (s : State), x.ok → y.ok →
    exec (.bvMsb x) s =
      .next { s with ret := .bool (decide (1 ≤ x.w ∧ 2 ^ (x.w - 1) ≤ x.v)) } ∧
    exec (.bvMatches x y) s =
      .next { s with ret := .bool (decide (x.w ≤ y.w ∧ y.v % 2 ^ x.w = x.v)) }

/-- R115, R116: the two shifts; the width of a right shift never goes below 0. -/
def Obligations.ShiftsMoveTheWidthToo : Prop :=
  ∀ (x : BitValue) (n : Nat) (s : State), x.ok →
    (x.w - n ≤ s.cfg.bvMax →
      exec (.bvShr x n) s = .next { s with ret := .bits ⟨x.v / 2 ^ n, x.w - n⟩ }) ∧
    (x.w + n ≤ s.cfg.bvMax →
      exec (.bvShl x n) s = .next { s with ret := .bits ⟨x.v * 2 ^ n, x.w + n⟩ })

/-- R117: `dropMsb` of a BitValue of width `w >= 1` keeps the low `w - 1` bits: it takes 2^(w-1) from a value that
has its top bit and nothing from one that has not. For width 0 the rule states no result: that the operation runs
there, and returns a free BitValue, masked and no wider than `BV_MAX`, is the model's choice (log 24). -/
def Obligations.DropMsbKeepsTheOtherBits : Prop :=
  ∀ (x : BitValue) (s : State), x.ok →
    (1 ≤ x.w → x.w - 1 ≤ s.cfg.bvMax →
      exec (.bvDropmsb x) s =
        .next { s with
          ret := .bits ⟨if 2 ^ (x.w - 1) ≤ x.v then x.v - 2 ^ (x.w - 1) else x.v, x.w - 1⟩ }) ∧
    (x.w = 0 → ∃ y : BitValue, y.ok ∧ y.w ≤ s.cfg.bvMax ∧
      exec (.bvDropmsb x) s = .next { s with ret := .bits y, draws := s.draws + 1 })

/-- R120: an operation whose result would be wider than `BV_MAX` is refused. -/
def Obligations.WiderResultsAreRefused : Prop :=
  ∀ (x y : BitValue) (n value : Nat) (s : State),
    (s.cfg.bvMax < n → exec (.bvMake value n) s = .refused .widerThanBvMax) ∧
    (s.cfg.bvMax < x.w + y.w → exec (.bvConcat x y) s = .refused .widerThanBvMax) ∧
    (s.cfg.bvMax < x.w - n → exec (.bvShr x n) s = .refused .widerThanBvMax) ∧
    (s.cfg.bvMax < x.w + n → exec (.bvShl x n) s = .refused .widerThanBvMax) ∧
    (s.cfg.bvMax < x.w - 1 → exec (.bvDropmsb x) s = .refused .widerThanBvMax)

/-- R118, the masking invariant: every BitValue an operation of the extractor returns lies below `2^w`, and it is no
wider than `BV_MAX` (R120), whatever its operands. -/
def Obligations.EveryReturnedBitValueIsMasked : Prop :=
  ∀ (s t : State) (i : Instr) (x : BitValue),
    ((∃ v w, i = .bvMake v w) ∨ (∃ a b, i = .bvConcat a b) ∨ (∃ a n, i = .bvShr a n) ∨
      (∃ a n, i = .bvShl a n) ∨ (∃ a, i = .bvDropmsb a)) →
    exec i s = .next t → t.ret = .bits x → x.v < 2 ^ x.w ∧ x.w ≤ s.cfg.bvMax

/-- R113: the most significant `a.w` bits of `concat(a, b)` are `a`'s bits and the rest are `b`'s, and shifting
`b`'s width out again gives `a` back. -/
def Obligations.ConcatKeepsBothParts : Prop :=
  ∀ a b : BitValue, a.ok → b.ok →
    (∀ k, (bvConcat a b).v.testBit k = if k < b.w then b.v.testBit k else a.v.testBit (k - b.w)) ∧
    bvShr (bvConcat a b) b.w = a ∧ pathBits (bvConcat a b) = pathBits a ++ pathBits b

/-! ## The formats of the header and the tree -/

/-- R82 to R84, R231, R240: in READ_HEADER each row of the header does its part of SD.READHEADER and nothing else; a
byte that is neither magic value takes the error UnrecognizedFormat (that a row runs by itself, with `phase`
left to the whole step, and what HDR.BADMAGIC does if it is put with a magic value, are the model's choices,
log 20). -/
def Obligations.HeaderRowsWriteTheirRegisters : Prop :=
  ∀ (s : State) (m sel : Byte) (len : BitVec 24), s.phase = .readHeader →
    exec .hdrMagic4 s = .next { s with mode := .nibble4 } ∧
    exec .hdrMagic8 s = .next { s with mode := .byte8 } ∧
    (m ≠ s.cfg.magic4 → m ≠ s.cfg.magic8 →
      exec (.hdrBadmagic m) s =
        .next { s with err := .unrecognizedFormat, phase := .failed, info := .magic m }) ∧
    (m = s.cfg.magic4 → exec (.hdrBadmagic m) s = exec .hdrMagic4 s) ∧
    (m = s.cfg.magic8 → m ≠ s.cfg.magic4 → exec (.hdrBadmagic m) s = exec .hdrMagic8 s) ∧
    exec (.hdrLen len) s = .next { s with declLen := len } ∧
    exec (.treeSel sel) s =
      .next { s with treeSel := sel, treeEnd := BitVec.ofNat 10 (4 + (sel.toNat + 1) * 2) }

/-- A row whose rule names a phase is not enabled outside that phase (R190); that the model refuses it there, by
name, is its own choice (log 12). -/
def Obligations.StepsAreNotEnabledOutsideTheirPhase : Prop :=
  ∀ (s : State) (m sel sym : Byte) (len : BitVec 24),
    (s.phase ≠ .readHeader →
      exec .hdrMagic4 s = .refused .notEnabled ∧ exec .hdrMagic8 s = .refused .notEnabled ∧
      exec (.hdrBadmagic m) s = .refused .notEnabled ∧
      exec (.hdrLen len) s = .refused .notEnabled ∧ exec (.treeSel sel) s = .refused .notEnabled ∧
      exec .sdReadheader s = .refused .notEnabled) ∧
    (s.phase ≠ .readTree → exec .sdReadtree s = .refused .notEnabled) ∧
    (s.phase ≠ .bodyCheck → exec .sdCheck s = .refused .notEnabled) ∧
    (s.phase ≠ .bodyDescend →
      exec .descLeaf s = .refused .notEnabled ∧ exec .descRefill s = .refused .notEnabled ∧
      exec .descBranch s = .refused .notEnabled ∧ exec .bodyBit0 s = .refused .notEnabled ∧
      exec .bodyBit1 s = .refused .notEnabled ∧ exec .sdRefill s = .refused .notEnabled ∧
      exec (.sdEmit8 sym) s = .refused .notEnabled ∧ exec (.sdEmit4hi sym) s = .refused .notEnabled ∧
      exec (.sdEmit4lo sym) s = .refused .notEnabled)

/-- R86, R87, R145, R146: a descriptor at `a` names the pair at `(a & ~1) + 2 * OFF + 2`, a leaf byte is its
symbol (that a row returns them by itself is log 21). -/
def Obligations.TreeRowsReturnTheirFields : Prop :=
  ∀ (s : State) (a : Nat) (l0 l1 : Bool) (off : BitVec 6) (sym : Byte),
    exec (.treeNode a l0 l1 off) s =
      .next { s with ret := .children ((a - a % 2) + off.toNat * 2 + 2) l0
                                      ((a - a % 2) + off.toNat * 2 + 3) l1 } ∧
    exec (.treeLeaf sym) s = .next { s with ret := .trie (.leaf sym) }

/-- R56, R91, R200: stream bit `k` of a window is bit `7 - k mod 8` of byte `k div 8`, or of byte
`3 - k div 8` with WINDOW_ORDER = LITTLE; it is bit `31 - k` of the window value. That the row runs by itself in
every state, and moves neither `bodyCur` nor `pend`, is the model's own choice (log 26, DESIGN CHOICE), and so is the
field it returns to (log 11). -/
def Obligations.WindowBitsStandInStreamOrder : Prop :=
  ∀ (s : State) (b0 b1 b2 b3 : Byte),
    ∃ W : BitVec 32,
      exec (.bodyWindow b0 b1 b2 b3) s = .next { s with ret := .window W } ∧
      ∀ k, k < 32 →
        W.getLsbD (31 - k) =
          ([b0, b1, b2, b3].getD
            (match s.cfg.windowOrder with | .big => k / 8 | .little => 3 - k / 8) 0#8).getLsbD (7 - k % 8)

/-! ## The tree decoder and the trie store -/

/-- R141 to R147: the tree decoder obeys the pseudocode of its rule at every address, region end and flag, for
every content of IN; `rd` may give a different byte at each place of the walk, as a disturbed IN does. -/
def Obligations.DecodeNodeObeysItsRule : Prop :=
  ∀ (rd : List Bool → Nat → Byte) (place : List Bool) (a regionEnd : Nat) (isLeaf : Bool),
    decodeNode rd place a regionEnd isLeaf =
      if regionEnd ≤ a then .absent
      else if isLeaf then .leaf (rd place a)
      else
        .internal
          (decodeNode rd (false :: place) ((a - a % 2) + (rd place a).toNat % 64 * 2 + 2) regionEnd
            (decide (128 ≤ (rd place a).toNat)))
          (decodeNode rd (true :: place) ((a - a % 2) + (rd place a).toNat % 64 * 2 + 2 + 1) regionEnd
            (decide (64 ≤ (rd place a).toNat % 128)))

/-- R141, R148, R149: TD.DECODENODE completes with every operand and returns the node; it takes from IN no byte at or
past `inLen`: any `rd` that agrees with IN below `inLen` gives the same node. That a region end past `inLen` stands
for `inLen` when the row is run by itself, as R149 has it for the region of a call, is the model's reading
(log 18). -/
def Obligations.DecodenodeReturnsTheNode : Prop :=
  ∀ (s : State) (a regionEnd : Nat) (isLeaf : Bool) (rd : List Bool → Nat → Byte),
    (∀ place k, k < s.inLen → rd place k = readIn s place k) →
    (regionEnd ≤ s.inLen →
      exec (.tdDecodenode a regionEnd isLeaf) s =
        .next { s with ret := .trie (decodeNode rd [] a regionEnd isLeaf),
                       draws := if s.inStable then s.draws else s.draws + 1 }) ∧
    (s.inLen < regionEnd →
      exec (.tdDecodenode a regionEnd isLeaf) s =
        .next { s with ret := .trie (decodeNode rd [] a s.inLen isLeaf),
                       draws := if s.inStable then s.draws else s.draws + 1 })

/-- R153: no node of the call's trie is deeper than `treeSel`, whatever IN holds. -/
def Obligations.NoNodeIsDeeperThanTheSelector : Prop :=
  ∀ (s : State) (path : List Bool), s.treeEnd.toNat = 6 + 2 * s.treeSel.toNat →
    follow (decodeRoot s) path ≠ .absent → path.length ≤ s.treeSel.toNat

/-- R150, R232: the root is absent exactly when `inLen <= 5`, and it is never a leaf. -/
def Obligations.RootIsAbsentExactlyWhenInIsShort : Prop :=
  ∀ s : State, 6 ≤ s.treeEnd.toNat →
    (decodeRoot s = .absent ↔ s.inLen ≤ 5) ∧ ∀ sym, decodeRoot s ≠ .leaf sym

/-- R152: with an even region end the two children of an internal node are both present or both absent. -/
def Obligations.ChildrenAreBothPresentOrBothAbsent : Prop :=
  ∀ (rd : List Bool → Nat → Byte) (place : List Bool) (a regionEnd : Nat) (isLeaf : Bool) (c0 c1 : Trie),
    regionEnd % 2 = 0 → decodeNode rd place a regionEnd isLeaf = .internal c0 c1 →
    (c0 = .absent ↔ c1 = .absent)

/-- R155, R179: the walk that keeps (address, leaf flag) into IN gives the same symbols, pending bits, window
addresses and errors as the walk of the built trie, from every address and for every body. -/
def Obligations.InPlaceWalkEqualsBuiltWalk : Prop :=
  ∀ (c : Config) (rd : Nat → Byte) (len regionEnd a : Nat) (isLeaf : Bool) (p : BitValue) (cur : Nat),
    descendInPlace c rd len regionEnd a isLeaf p cur =
      descend c rd len (decodeNode (fun _ k => rd k) [] a regionEnd isLeaf) p cur

/-- R157, R250: TRIE.INSERT rejects exactly the paths that run through a leaf or end on a node; otherwise the
leaf stands at the path and every other leaf stands where it stood. Nothing but the returned value changes. A
path wider than `BV_MAX + 1`, whose first `dropMsb` would be wider than `BV_MAX`, is refused (R120), but for a
leaf, which rejects it before any `dropMsb` (the order is the model's reading, log 25). -/
def Obligations.InsertPlacesOneLeafOrRejects : Prop :=
  ∀ (s : State) (t : Trie) (path : BitValue) (sym : Byte),
    (path.w ≤ s.cfg.bvMax + 1 →
      (Blocked t (pathBits path) → exec (.trieInsert t path sym) s = .next { s with ret := .reject }) ∧
      (¬ Blocked t (pathBits path) →
        ∃ r, exec (.trieInsert t path sym) s = .next { s with ret := .trie r } ∧
          follow r (pathBits path) = .leaf sym ∧
          ∀ q x, q ≠ pathBits path → (follow r q = .leaf x ↔ follow t q = .leaf x))) ∧
    (s.cfg.bvMax + 1 < path.w →
      (∀ x, t = .leaf x → exec (.trieInsert t path sym) s = .next { s with ret := .reject }) ∧
      ((∀ x, t ≠ .leaf x) → exec (.trieInsert t path sym) s = .refused .widerThanBvMax))

/-- R158: TRIE.FROMMAP of an empty list gives no node, and of a list with one pair more inserts that pair into
what the list gives; REJECT stays REJECT, and a refused list (R120) stays refused. Nothing but the returned value
changes. With paths that the extractor can take apart (R120) it completes: a list in which no path is a prefix of
another, or equal to it, gives the trie whose leaves are exactly the pairs of the list, and any other list gives
REJECT. -/
def Obligations.FromMapFoldsTheInsertions : Prop :=
  ∀ (s : State) (m : List (BitValue × Byte)) (path : BitValue) (sym : Byte),
    exec (.trieFrommap []) s = .next { s with ret := .trie .absent } ∧
    (exec (.trieFrommap m) s = .next { s with ret := .reject } →
      exec (.trieFrommap (m ++ [(path, sym)])) s = .next { s with ret := .reject }) ∧
    (exec (.trieFrommap m) s = .refused .widerThanBvMax →
      exec (.trieFrommap (m ++ [(path, sym)])) s = .refused .widerThanBvMax) ∧
    (∀ t, exec (.trieFrommap m) s = .next { s with ret := .trie t } →
      exec (.trieFrommap (m ++ [(path, sym)])) s = exec (.trieInsert t path sym) s) ∧
    (exec (.trieFrommap m) s = .next { s with ret := .reject } ∨
      exec (.trieFrommap m) s = .refused .widerThanBvMax ∨
      ∃ t, exec (.trieFrommap m) s = .next { s with ret := .trie t }) ∧
    ((∀ p ∈ m, p.1.w ≤ s.cfg.bvMax + 1) →
      (PrefixFree m →
        ∃ t, exec (.trieFrommap m) s = .next { s with ret := .trie t } ∧
          ∀ q x, follow t q = .leaf x ↔ ∃ p ∈ m, pathBits p.1 = q ∧ p.2 = x) ∧
      (¬ PrefixFree m → exec (.trieFrommap m) s = .next { s with ret := .reject }))

/-- R158: the result of TRIE.FROMMAP does not depend on the order of the list, where its paths are ones the extractor
can take apart (R120). A list with a wider path gives no trie in any order: it is refused, or rejected where a
REJECT comes first (log 25). -/
def Obligations.FromMapDoesNotDependOnTheOrder : Prop :=
  ∀ (s : State) (m m' : List (BitValue × Byte)),
    (m.Perm m' → (∀ p ∈ m, p.1.w ≤ s.cfg.bvMax + 1) →
      exec (.trieFrommap m) s = exec (.trieFrommap m') s) ∧
    ((∃ p ∈ m, s.cfg.bvMax + 1 < p.1.w) →
      exec (.trieFrommap m) s = .refused .widerThanBvMax ∨
      exec (.trieFrommap m) s = .next { s with ret := .reject })

/-! ## The descent engine -/

/-- R172, R199, R177: at an internal node with no pending bits DESC.REFILL loads the window at `bodyCur`, or raises
TruncatedInput when fewer than 4 bytes are left, whatever children the node has. -/
def Obligations.RefillLoadsAWindowOrIsTruncated : Prop :=
  ∀ (s : State) (c0 c1 : Trie), s.phase = .bodyDescend → s.node = .internal c0 c1 →
    s.pend = ⟨0, 0⟩ →
    (s.bodyCur + 4 ≤ s.inLen →
      exec .descRefill s =
        .next { s with
          pend := ⟨(windowOf s.cfg.windowOrder (readIn s [] s.bodyCur) (readIn s [] (s.bodyCur + 1))
            (readIn s [] (s.bodyCur + 2)) (readIn s [] (s.bodyCur + 3))).toNat, 32⟩
          bodyCur := s.bodyCur + 4
          draws := if s.inStable then s.draws else s.draws + 1 }) ∧
    (s.inLen < s.bodyCur + 4 →
      exec .descRefill s =
        .next { s with err := .truncatedInput, phase := .failed, info := .body s.bodyCur })

/-- R199: SD.REFILL by itself returns the window as a BitValue of width 32 and moves `bodyCur` by 4, or raises
TruncatedInput (that it returns to a field of the model is log 11). -/
def Obligations.SdRefillReturnsTheWindow : Prop :=
  ∀ (s : State) (c0 c1 : Trie), s.phase = .bodyDescend → s.node = .internal c0 c1 → s.pend.w = 0 →
    (s.bodyCur + 4 ≤ s.inLen →
      exec .sdRefill s =
        .next { s with
          ret := .bits ⟨(windowOf s.cfg.windowOrder (readIn s [] s.bodyCur) (readIn s [] (s.bodyCur + 1))
            (readIn s [] (s.bodyCur + 2)) (readIn s [] (s.bodyCur + 3))).toNat, 32⟩
          bodyCur := s.bodyCur + 4
          draws := if s.inStable then s.draws else s.draws + 1 }) ∧
    (s.inLen < s.bodyCur + 4 →
      exec .sdRefill s =
        .next { s with err := .truncatedInput, phase := .failed, info := .body s.bodyCur })

/-- R173, R174, R240: DESC.BRANCH consumes the most significant pending bit and moves to the child it selects; with
that child absent it raises CorruptStream, the bit consumed all the same. -/
def Obligations.BranchFollowsTheBitOrIsCorrupt : Prop :=
  ∀ (s : State) (c0 c1 : Trie) (b : Bool), s.phase = .bodyDescend → s.node = .internal c0 c1 →
    1 ≤ s.pend.w → s.pend.v.testBit (s.pend.w - 1) = b →
    ((if b then c1 else c0) ≠ .absent →
      exec .descBranch s =
        .next { s with node := if b then c1 else c0
                       pend := ⟨s.pend.v % 2 ^ (s.pend.w - 1), s.pend.w - 1⟩ }) ∧
    ((if b then c1 else c0) = .absent →
      exec .descBranch s =
        .next { s with
          pend := ⟨s.pend.v % 2 ^ (s.pend.w - 1), s.pend.w - 1⟩
          err := .corruptStream
          phase := .failed
          info := .absentChild s.node b ⟨s.pend.v % 2 ^ (s.pend.w - 1), s.pend.w - 1⟩ })

/-- R92: at an internal node the stream bit 1 takes the 1 child and the stream bit 0 the 0 child; each row
does what DESC.BRANCH does where its bit is the next one, and is not enabled where it is not (log 22). -/
def Obligations.StreamBitsTakeTheirChild : Prop :=
  ∀ (s : State) (c0 c1 : Trie), s.phase = .bodyDescend → s.node = .internal c0 c1 → 1 ≤ s.pend.w →
    (s.pend.v.testBit (s.pend.w - 1) = false →
      (c0 ≠ .absent → exec .bodyBit0 s =
        .next { s with node := c0, pend := ⟨s.pend.v % 2 ^ (s.pend.w - 1), s.pend.w - 1⟩ }) ∧
      exec .bodyBit0 s = exec .descBranch s ∧ exec .bodyBit1 s = .refused .notEnabled) ∧
    (s.pend.v.testBit (s.pend.w - 1) = true →
      (c1 ≠ .absent → exec .bodyBit1 s =
        .next { s with node := c1, pend := ⟨s.pend.v % 2 ^ (s.pend.w - 1), s.pend.w - 1⟩ }) ∧
      exec .bodyBit1 s = exec .descBranch s ∧ exec .bodyBit0 s = .refused .notEnabled)

/-- R171, R201 to R203: DESC.LEAF emits the symbol of the leaf by `mode` and `nibFull`, leaves `pend` as it is and
goes back to BODY_CHECK (4-bit symbols that `WIDE_NIBBLE_POLICY` lets through). -/
def Obligations.LeafEmitsItsSymbol : Prop :=
  ∀ (s : State) (sym : Byte), s.phase = .bodyDescend → s.node = .leaf sym →
    (s.mode = .byte8 →
      exec .descLeaf s =
        .next { s with out := memWrite s.out s.emitted.toNat sym
                       emitted := s.emitted + 1
                       phase := .bodyCheck }) ∧
    (s.cfg.widePolicy = .truncate ∨ sym.toNat ≤ 0xF →
      (s.mode = .nibble4 → s.nibFull = false →
        exec .descLeaf s =
          .next { s with nibHi := sym <<< 4, nibFull := true, phase := .bodyCheck }) ∧
      (s.mode = .nibble4 → s.nibFull = true →
        exec .descLeaf s =
          .next { s with out := memWrite s.out s.emitted.toNat (s.nibHi ||| sym)
                         emitted := s.emitted + 1
                         nibFull := false
                         phase := .bodyCheck }))

/-- R201 to R203: the three emission rows by themselves, where DESC.LEAF would run them: as the leaf step, but for
`phase`. -/
def Obligations.EmissionRowsWriteTheirByteOrNibble : Prop :=
  ∀ (s : State) (sym : Byte), s.phase = .bodyDescend → s.node = .leaf sym →
    (s.mode = .byte8 →
      exec (.sdEmit8 sym) s =
        .next { s with out := memWrite s.out s.emitted.toNat sym, emitted := s.emitted + 1 }) ∧
    (s.cfg.widePolicy = .truncate ∨ sym.toNat ≤ 0xF →
      (s.mode = .nibble4 → s.nibFull = false →
        exec (.sdEmit4hi sym) s = .next { s with nibHi := sym <<< 4, nibFull := true }) ∧
      (s.mode = .nibble4 → s.nibFull = true →
        exec (.sdEmit4lo sym) s =
          .next { s with out := memWrite s.out s.emitted.toNat (s.nibHi ||| sym)
                         emitted := s.emitted + 1
                         nibFull := false }))

/-- R204: under WIDE_NIBBLE_POLICY = FAULT a leaf step in 4-bit mode with a symbol above 0xF is the model fault
WideNibble; and an instruction is that fault only there: under that policy, in that mode, in BODY_DESCEND at a
leaf of a symbol above 0xF. -/
def Obligations.WideNibbleFaultsExactlyUnderItsPolicy : Prop :=
  ∀ (s : State),
    (∀ sym, s.phase = .bodyDescend → s.node = .leaf sym → s.mode = .nibble4 → 0xF < sym.toNat →
      s.cfg.widePolicy = .fault →
      exec .descLeaf s = .fault .wideNibble ∧
      (s.nibFull = false → exec (.sdEmit4hi sym) s = .fault .wideNibble) ∧
      (s.nibFull = true → exec (.sdEmit4lo sym) s = .fault .wideNibble)) ∧
    (∀ i, exec i s = .fault .wideNibble →
      s.cfg.widePolicy = .fault ∧ s.mode = .nibble4 ∧ s.phase = .bodyDescend ∧
        ∃ sym, s.node = .leaf sym ∧ 0xF < sym.toNat)

/-- R179, R175: from BODY_DESCEND the steps of the block compute `descend`: they reach the leaf step with its
symbol, its pending bits and its window address, and change nothing else, or they raise its error; OUT is not
touched either way. -/
def Obligations.StepsComputeTheDescent : Prop :=
  ∀ (s : State), Undisturbed s → s.inStable = true → s.phase = .bodyDescend → s.node ≠ .absent →
    ∃ k t, run k s = .next t ∧ t.out = s.out ∧ t.emitted = s.emitted ∧
      match descend s.cfg (readIn s []) s.inLen s.node s.pend s.bodyCur with
      | .symbol sym p cur => t = { s with node := .leaf sym, pend := p, bodyCur := cur }
      | .error e => t.phase = .failed ∧ t.err = e

/-- R93, R175, R176: a descent that returns a symbol consumes exactly the bits of one path from its node to a leaf of
that symbol: the bits pending at its start, followed by those of the windows it fetched, are the bits of the path
in their order, followed by the pending bits left. If it fetched a window, fewer than 32 bits are left and the
windows lie inside IN. -/
def Obligations.DescentConsumesExactlyOneCode : Prop :=
  ∀ (c : Config) (rd : Nat → Byte) (len : Nat) (n : Trie) (p q : BitValue) (cur cur' : Nat) (sym : Byte),
    descend c rd len n p cur = .symbol sym q cur' →
    ∃ path windows, follow n path = .leaf sym ∧ cur' = cur + 4 * windows ∧
      pathBits p ++ windowBits c rd windows cur = path ++ pathBits q ∧
      (1 ≤ windows → q.w < 32 ∧ cur' ≤ len)

/-! ## The stream decoder -/

/-- R191: SD.START latches `inLen` and goes to READ_HEADER from IDLE, DONE and FAILED; while a call runs it is
ignored whatever its `IN_LEN` (the spec's own decision, D13). That an `IN_LEN` past the address width, which R8
rules out, is refused where no call runs is the model's choice (log 19). -/
def Obligations.StartBeginsACallOrIsIgnored : Prop :=
  ∀ (s : State) (len : Nat),
    (s.phase = .idle ∨ s.phase = .done ∨ s.phase = .failed →
      (len ≤ 2 ^ s.cfg.inAddrW →
        exec (.sdStart len) s =
          .next { s with inLen := len, phase := .readHeader, inStable := true }) ∧
      (2 ^ s.cfg.inAddrW < len → exec (.sdStart len) s = .refused .inLenTooLong)) ∧
    (s.phase = .readHeader ∨ s.phase = .readTree ∨ s.phase = .bodyCheck ∨ s.phase = .bodyDescend →
      exec (.sdStart len) s = .next s)

/-- R192 to R194: a good header is read into `mode`, `declLen`, `treeSel` and `treeEnd`. -/
def Obligations.GoodHeaderIsRead : Prop :=
  ∀ (s : State) (m : Mode), s.phase = .readHeader → 5 ≤ s.inLen →
    (readIn s [] 0 = s.cfg.magic4 ∧ m = .nibble4 ∨
      readIn s [] 0 = s.cfg.magic8 ∧ s.cfg.magic8 ≠ s.cfg.magic4 ∧ m = .byte8) →
    exec .sdReadheader s =
      .next { s with
        mode := m
        declLen := BitVec.ofNat 24 ((readIn s [] 1).toNat + 256 * (readIn s [] 2).toNat +
          65536 * (readIn s [] 3).toNat)
        treeSel := readIn s [] 4
        treeEnd := BitVec.ofNat 10 (4 + ((readIn s [] 4).toNat + 1) * 2)
        phase := .readTree
        draws := if s.inStable then s.draws else s.draws + 1 }

/-- R192, R234, R238: the header's errors in their order: no byte at all, a bad magic byte, then a header of 1 to
4 bytes after a good one (which has written `mode`). -/
def Obligations.HeaderErrorsInTheirOrder : Prop :=
  ∀ (s : State), s.phase = .readHeader →
    (s.inLen < 1 →
      exec .sdReadheader s =
        .next { s with err := .truncatedInput, phase := .failed, info := .header }) ∧
    (1 ≤ s.inLen → readIn s [] 0 ≠ s.cfg.magic4 → readIn s [] 0 ≠ s.cfg.magic8 →
      exec .sdReadheader s =
        .next { s with err := .unrecognizedFormat, phase := .failed, info := .magic (readIn s [] 0),
                       draws := if s.inStable then s.draws else s.draws + 1 }) ∧
    (∀ m, 1 ≤ s.inLen → s.inLen < 5 →
      (readIn s [] 0 = s.cfg.magic4 ∧ m = .nibble4 ∨
        readIn s [] 0 = s.cfg.magic8 ∧ s.cfg.magic8 ≠ s.cfg.magic4 ∧ m = .byte8) →
      exec .sdReadheader s =
        .next { s with mode := m, err := .truncatedInput, phase := .failed, info := .header,
                       draws := if s.inStable then s.draws else s.draws + 1 })

/-- R195, R196, R232: SD.READTREE builds the trie and performs body init, or raises CorruptTree exactly when IN
holds no root; `nibHi` is not written. -/
def Obligations.ReadTreeBuildsTheTrieOrIsCorrupt : Prop :=
  ∀ (s : State), s.phase = .readTree → 6 ≤ s.treeEnd.toNat →
    (6 ≤ s.inLen →
      exec .sdReadtree s =
        .next { s with
          root := decodeNode (readIn s) [] 5 (min s.treeEnd.toNat s.inLen) false
          bodyCur := s.treeEnd.toNat
          pend := ⟨0, 0⟩
          emitted := 0
          nibFull := false
          phase := .bodyCheck
          draws := if s.inStable then s.draws else s.draws + 1 }) ∧
    (s.inLen ≤ 5 →
      exec .sdReadtree s =
        .next { s with err := .corruptTree, phase := .failed, info := .noRoot,
                       draws := if s.inStable then s.draws else s.draws + 1 })

/-- R197, R205: SD.CHECK ends the call when `emitted = declLen` and starts a descent at the root otherwise; `pend`
is not touched. -/
def Obligations.CheckEndsTheCallOrStartsADescent : Prop :=
  ∀ (s : State), s.phase = .bodyCheck →
    (s.emitted = s.declLen → exec .sdCheck s = .next { s with phase := .done }) ∧
    (s.emitted ≠ s.declLen →
      exec .sdCheck s = .next { s with node := s.root, phase := .bodyDescend })

/-- R260 to R262: SD.RESET in any phase goes to IDLE, `status` reads 0; IN, the parameters and the host's coming
inputs stay; the other registers and OUT hold any value (R261, D12; log 5), so nothing is said of them but
that the host reads no byte of OUT as a result. -/
def Obligations.ResetGoesToIdleFromAnyPhase : Prop :=
  ∀ s : State, ∃ t, exec .sdReset s = .next t ∧ t.phase = .idle ∧ statusCode t = 0#3 ∧
    outLen t = none ∧ t.inp = s.inp ∧ t.cfg = s.cfg ∧ t.inputs = s.inputs ∧
    (∀ k a, hostReadOut k t a = Config.freeOut k a)

/-- R236: the status code of every phase and error kind; bit 2 set means a failed call, and code 3 is never
produced. -/
def Obligations.StatusIsAFunctionOfPhaseAndError : Prop :=
  ∀ s : State,
    (s.phase = .idle → statusCode s = 0#3) ∧
    (s.phase = .readHeader ∨ s.phase = .readTree ∨ s.phase = .bodyCheck ∨ s.phase = .bodyDescend →
      statusCode s = 1#3) ∧
    (s.phase = .done → statusCode s = 2#3) ∧
    (s.phase = .failed →
      statusCode s = match s.err with
        | .unrecognizedFormat => 4#3
        | .corruptTree => 5#3
        | .corruptStream => 6#3
        | .truncatedInput => 7#3) ∧
    ((statusCode s).getLsbD 2 = true ↔ s.phase = .failed) ∧ statusCode s ≠ 3#3

/-! ## Rules about the whole machine -/

/-- R237, R240: errors are precise. An instruction that takes the block from another phase to FAILED writes no
OUT byte and no register but `err`, `phase`, what its rule writes before raising (`mode` in
SD.READHEADER, `pend` in a branch) and what the model records. -/
def Obligations.ErrorEntryIsPrecise : Prop :=
  ∀ (i : Instr) (s t : State), exec i s = .next t → s.phase ≠ .failed → t.phase = .failed →
    t.out = s.out ∧ t.emitted = s.emitted ∧ t.nibFull = s.nibFull ∧ t.nibHi = s.nibHi ∧
    t.root = s.root ∧ t.node = s.node ∧ t.bodyCur = s.bodyCur ∧ t.inLen = s.inLen ∧
    t.declLen = s.declLen ∧ t.treeSel = s.treeSel ∧ t.treeEnd = s.treeEnd ∧ t.inp = s.inp ∧
    t.ret = s.ret ∧ (t.mode ≠ s.mode → i = .sdReadheader) ∧
    (t.pend ≠ s.pend → i = .descBranch ∨ i = .bodyBit0 ∨ i = .bodyBit1)

/-- R50, R52, R264: no step changes the parameters, and none changes IN but the host's own write of one byte. -/
def Obligations.TheBlockNeverWritesIn : Prop :=
  ∀ s t : State, step s = .next t →
    t.cfg = s.cfg ∧
    (t.inp = s.inp ∨
      ∃ a b rest, s.issue = none ∧ s.inputs = .putIn a b :: rest ∧ t.inp = memWrite s.inp a b)

/-- R51, R65: an instruction other than SD.RESET leaves every OUT byte but the one at `emitted` as it was, and
where it changes OUT it writes that byte and moves `emitted` past it. Every address outside the stored byte
reads as before. -/
def Obligations.OutIsWrittenOnlyAtEmitted : Prop :=
  ∀ (i : Instr) (s t : State), exec i s = .next t → i ≠ .sdReset →
    (∀ a, a ≠ s.emitted.toNat → memRead t.out a = memRead s.out a) ∧
    (t.out = s.out ∨
      (t.emitted = s.emitted + 1#24 ∧
        ∃ b, memRead t.out s.emitted.toNat = some b ∧ t.out = memWrite s.out s.emitted.toNat b))

/-- R22, R25, R69, R156: each register, and OUT, is written only by the rows of its writers in the table of R22 (and
their parts, HDR.BADMAGIC put with a magic value among them, log 20; and SD.RESET, which leaves it unspecified).
`phase` has every step as a writer. -/
def Obligations.EachRegisterHasOnlyItsWriters : Prop :=
  ∀ (i : Instr) (s t : State), exec i s = .next t → i ≠ .sdReset →
    (t.inLen ≠ s.inLen → ∃ len, i = .sdStart len) ∧
    (t.mode ≠ s.mode →
      i = .sdReadheader ∨ i = .hdrMagic4 ∨ i = .hdrMagic8 ∨ ∃ m, i = .hdrBadmagic m) ∧
    (t.declLen ≠ s.declLen → i = .sdReadheader ∨ ∃ n, i = .hdrLen n) ∧
    (t.treeSel ≠ s.treeSel ∨ t.treeEnd ≠ s.treeEnd → i = .sdReadheader ∨ ∃ b, i = .treeSel b) ∧
    (t.root ≠ s.root → i = .sdReadtree) ∧
    (t.node ≠ s.node → i = .sdCheck ∨ i = .descBranch ∨ i = .bodyBit0 ∨ i = .bodyBit1) ∧
    (t.pend ≠ s.pend →
      i = .sdReadtree ∨ i = .descRefill ∨ i = .descBranch ∨ i = .bodyBit0 ∨ i = .bodyBit1) ∧
    (t.emitted ≠ s.emitted →
      i = .sdReadtree ∨ i = .descLeaf ∨ (∃ b, i = .sdEmit8 b) ∨ ∃ b, i = .sdEmit4lo b) ∧
    (t.nibFull ≠ s.nibFull →
      i = .sdReadtree ∨ i = .descLeaf ∨ (∃ b, i = .sdEmit4hi b) ∨ ∃ b, i = .sdEmit4lo b) ∧
    (t.nibHi ≠ s.nibHi → i = .descLeaf ∨ ∃ b, i = .sdEmit4hi b) ∧
    (t.bodyCur ≠ s.bodyCur → i = .sdReadtree ∨ i = .descRefill ∨ i = .sdRefill) ∧
    (t.out ≠ s.out → i = .descLeaf ∨ (∃ b, i = .sdEmit8 b) ∨ ∃ b, i = .sdEmit4lo b) ∧
    (t.err ≠ s.err → t.phase = .failed) ∧
    t.inp = s.inp ∧ t.cfg = s.cfg ∧ t.inputs = s.inputs ∧ t.issue = s.issue

/-- R24, R90, R178: `bodyCur` moves only by 4 and only at a refill, which takes place only at an internal node with no
pending bits and a whole window left; beside that only body init sets it, to `treeEnd`. -/
def Obligations.WindowsAreFetchedOnlyOnDemand : Prop :=
  ∀ (i : Instr) (s t : State), exec i s = .next t → i ≠ .sdReset → t.bodyCur ≠ s.bodyCur →
    (i = .sdReadtree ∧ t.bodyCur = s.treeEnd.toNat) ∨
    ((i = .descRefill ∨ i = .sdRefill) ∧ t.bodyCur = s.bodyCur + 4 ∧ s.bodyCur + 4 ≤ s.inLen ∧
      s.pend.w = 0 ∧ ∃ c0 c1, s.node = .internal c0 c1)

/-- A byte space after a write reads the written byte at its address and every other address as before, and keeps
its canonical form; two spaces in that form that read alike everywhere are equal. -/
def Obligations.WritesKeepTheSpacesCanonical : Prop :=
  ∀ (m m' : Mem) (a : Nat) (b : Byte), memWf m = true → memWf m' = true →
    memWf (memWrite m a b) = true ∧
    (∀ k, memRead (memWrite m a b) k = if k = a then some b else memRead m k) ∧
    ((∀ k, memRead m k = memRead m' k) → m = m')

/-- R63, R265: a host write of IN during a call (at any address, log 6) makes every IN byte the block reads from then
on a draw: `inStable` is false after it, stays so until a new start, and while it is false each read is a free
value. Outside a call the write only puts the byte there. -/
def Obligations.HostWriteDuringACallMakesReadsDraws : Prop :=
  (∀ (s : State) (a : Nat) (b : Byte) (rest : List HostInput),
    s.issue = none → s.inputs = .putIn a b :: rest → a < 2 ^ s.cfg.inAddrW →
    ∃ t, step s = .next t ∧ memRead t.inp a = some b ∧
      (busy s.phase = true → t.inStable = false) ∧
      (busy s.phase = false → s.inStable = true →
        ∀ place k, readIn t place k = if k = a then b else readIn s place k)) ∧
  (∀ s t : State, s.inStable = false → step s = .next t → t.inStable = true →
    busy s.phase = false ∧ t.phase = .readHeader) ∧
  (∀ (s : State) (place : List Bool) (k : Nat), s.inStable = false →
    readIn s place k = Config.freeIn s.draws place k)

/-- R21, R64: in DONE the host reads `outLen = declLen` and, below it, the bytes the call wrote, the same at every
read. -/
def Obligations.HostReadsTheResultInDone : Prop :=
  ∀ s : State, BlockInv s → s.phase = .done →
    outLen s = some s.declLen ∧
    ∀ a, a < s.declLen.toNat → ∃ b, memRead s.out a = some b ∧ ∀ k, hostReadOut k s a = b

/-- R30, R31, R121 and the canonical form: every step of a machine driven by its host keeps the invariant. -/
def Obligations.EveryStepKeepsTheInvariant : Prop :=
  ∀ s t : State, BlockInv s → step s = .next t → BlockInv t

/-- The invariant holds after reset. -/
def Obligations.TheInvariantHoldsAtReset : Prop := BlockInv State.reset

/-- R206, R179: left to itself from READ_HEADER with a stable IN, the block computes `decode(IN, L)`: it reaches DONE with
the reference's bytes in OUT, or FAILED with its error kind, or (under WIDE_NIBBLE_POLICY = FAULT) the model
fault WideNibble. -/
def Obligations.ACallComputesTheReference : Prop :=
  ∀ s : State, Undisturbed s → s.inStable = true → s.phase = .readHeader →
    match decodeCall s.cfg (readIn s []) s.inLen with
    | .ok bytes =>
      ∃ k t, run k s = .next t ∧ t.phase = .done ∧ t.declLen.toNat = bytes.length ∧
        ∀ a, a < bytes.length → memRead t.out a = bytes[a]?
    | .err e => ∃ k t, run k s = .next t ∧ t.phase = .failed ∧ t.err = e
    | .wideNibble => ∃ k, run k s = .fault .wideNibble

/-- R207, R269: left to itself, every call ends within the step bound, whatever IN holds and even if the host has
changed it: in DONE, in FAILED, or at the model fault WideNibble. -/
def Obligations.EveryCallEndsWithinItsBound : Prop :=
  ∀ s : State, Undisturbed s → s.phase = .readHeader →
    ∃ k t, k ≤ stepBound t ∧ run k s = .next t ∧
      (Terminal t ∨ (step t = .fault .wideNibble ∧ t.cfg.widePolicy = .fault))

/-- R20, R22, R261: no register's value before a call is observable. Two blocks with the same parameters and IN that
start a call of the same length show the host the same status and the same result after every number of steps,
whatever their other registers held. -/
def Obligations.ValuesBeforeACallAreNotObservable : Prop :=
  ∀ s s' : State, Undisturbed s → Undisturbed s' → s.phase = .readHeader → s'.phase = .readHeader →
    s.cfg = s'.cfg → s.inp = s'.inp → s.inLen = s'.inLen → s.inStable = true → s'.inStable = true →
    ∀ n,
      match run n s, run n s' with
      | .next t, .next t' =>
        statusCode t = statusCode t' ∧ outLen t = outLen t' ∧
          ∀ k a, hostReadOut k t a = hostReadOut k t' a
      | .fault f, .fault f' => f = f'
      | .refused r, .refused r' => r = r'
      | _, _ => False

/-- R50, R95, R149: the block reads IN only at addresses below `inLen`: with IN stable, a byte at or past `inLen`
changes nothing its next step does. -/
def Obligations.BytesPastTheInputLengthAreNotRead : Prop :=
  ∀ (s : State) (inp' : Mem), Undisturbed s → s.inStable = true →
    (∀ a, a < s.inLen → memRead s.inp a = memRead inp' a) →
    step { s with inp := inp' } =
      match step s with
      | .next t => .next { t with inp := inp' }
      | .fault f => .fault f
      | .refused r => .refused r
end

