-- ==== Sys2Proof/Laws/Bits.lean ====
section
/-! SUPPORT. What the functions of the bit extractor give (R111 to R117), in arithmetic. -/

namespace Sys2Proof.Machine

@[simp] theorem bvMake_w (v w : Nat) : (bvMake v w).w = w := rfl

/-- Masking to `w` bits is the remainder by `2^w`. -/
@[simp] theorem bvMake_v (v w : Nat) : (bvMake v w).v = v % 2 ^ w := by
  simp [bvMake, mask, Nat.and_two_pow_sub_one_eq_mod]

theorem bvMake_ok (v w : Nat) : (bvMake v w).ok := by
  simpa [BitValue.ok] using Nat.mod_lt v (Nat.two_pow_pos w)

@[simp] theorem bvDropMsb_w (x : BitValue) : (bvDropMsb x).w = x.w - 1 := rfl

@[simp] theorem bvDropMsb_v (x : BitValue) : (bvDropMsb x).v = x.v % 2 ^ (x.w - 1) := by
  simp [bvDropMsb]

theorem bvDropMsb_ok (x : BitValue) : (bvDropMsb x).ok := bvMake_ok _ _

@[simp] theorem bvConcat_w (x y : BitValue) : (bvConcat x y).w = x.w + y.w := rfl

/-- With the empty BitValue above, concat gives the low part. -/
@[simp] theorem bvConcat_empty_left (y : BitValue) : bvConcat BitValue.empty y = y := by
  simp [bvConcat]

@[simp] theorem bvShl_w (x : BitValue) (n : Nat) : (bvShl x n).w = x.w + n := rfl

@[simp] theorem bvShr_w (x : BitValue) (n : Nat) : (bvShr x n).w = x.w - n := by
  unfold bvShr
  split
  · rfl
  · simp only; omega

/-- For a non-empty BitValue the first stream bit is bit `w - 1`. -/
theorem bvMsb_eq (x : BitValue) (h : 1 ≤ x.w) : bvMsb x = x.v.testBit (x.w - 1) := by
  rw [bvMsb, if_neg (by omega)]

end Sys2Proof.Machine
end

