-- ==== Sys2Proof/Laws/State.lean ====
section
/-! SUPPORT. One lemma per field per named update of the state, true by rfl, so that no later proof unfolds a
record update. -/

namespace Sys2Proof.Machine

/-! ### raise -/

@[simp] theorem raise_cfg (k : ErrKind) (i : ErrInfo) (s : State) : (raise k i s).cfg = s.cfg := rfl
@[simp] theorem raise_phase (k : ErrKind) (i : ErrInfo) (s : State) : (raise k i s).phase = .failed := rfl
@[simp] theorem raise_err (k : ErrKind) (i : ErrInfo) (s : State) : (raise k i s).err = k := rfl
@[simp] theorem raise_inLen (k : ErrKind) (i : ErrInfo) (s : State) : (raise k i s).inLen = s.inLen := rfl
@[simp] theorem raise_mode (k : ErrKind) (i : ErrInfo) (s : State) : (raise k i s).mode = s.mode := rfl
@[simp] theorem raise_declLen (k : ErrKind) (i : ErrInfo) (s : State) : (raise k i s).declLen = s.declLen := rfl
@[simp] theorem raise_treeSel (k : ErrKind) (i : ErrInfo) (s : State) : (raise k i s).treeSel = s.treeSel := rfl
@[simp] theorem raise_treeEnd (k : ErrKind) (i : ErrInfo) (s : State) : (raise k i s).treeEnd = s.treeEnd := rfl
@[simp] theorem raise_root (k : ErrKind) (i : ErrInfo) (s : State) : (raise k i s).root = s.root := rfl
@[simp] theorem raise_node (k : ErrKind) (i : ErrInfo) (s : State) : (raise k i s).node = s.node := rfl
@[simp] theorem raise_pend (k : ErrKind) (i : ErrInfo) (s : State) : (raise k i s).pend = s.pend := rfl
@[simp] theorem raise_bodyCur (k : ErrKind) (i : ErrInfo) (s : State) : (raise k i s).bodyCur = s.bodyCur := rfl
@[simp] theorem raise_emitted (k : ErrKind) (i : ErrInfo) (s : State) : (raise k i s).emitted = s.emitted := rfl
@[simp] theorem raise_nibFull (k : ErrKind) (i : ErrInfo) (s : State) : (raise k i s).nibFull = s.nibFull := rfl
@[simp] theorem raise_nibHi (k : ErrKind) (i : ErrInfo) (s : State) : (raise k i s).nibHi = s.nibHi := rfl
@[simp] theorem raise_inp (k : ErrKind) (i : ErrInfo) (s : State) : (raise k i s).inp = s.inp := rfl
@[simp] theorem raise_out (k : ErrKind) (i : ErrInfo) (s : State) : (raise k i s).out = s.out := rfl
@[simp] theorem raise_inputs (k : ErrKind) (i : ErrInfo) (s : State) : (raise k i s).inputs = s.inputs := rfl
@[simp] theorem raise_info (k : ErrKind) (i : ErrInfo) (s : State) : (raise k i s).info = i := rfl
@[simp] theorem raise_ret (k : ErrKind) (i : ErrInfo) (s : State) : (raise k i s).ret = s.ret := rfl
@[simp] theorem raise_issue (k : ErrKind) (i : ErrInfo) (s : State) : (raise k i s).issue = s.issue := rfl
@[simp] theorem raise_inStable (k : ErrKind) (i : ErrInfo) (s : State) : (raise k i s).inStable = s.inStable := rfl
@[simp] theorem raise_draws (k : ErrKind) (i : ErrInfo) (s : State) : (raise k i s).draws = s.draws := rfl

/-! ### beginCall -/

@[simp] theorem beginCall_cfg (len : Nat) (s : State) : (beginCall len s).cfg = s.cfg := rfl
@[simp] theorem beginCall_phase (len : Nat) (s : State) : (beginCall len s).phase = .readHeader := rfl
@[simp] theorem beginCall_err (len : Nat) (s : State) : (beginCall len s).err = s.err := rfl
@[simp] theorem beginCall_inLen (len : Nat) (s : State) : (beginCall len s).inLen = len := rfl
@[simp] theorem beginCall_mode (len : Nat) (s : State) : (beginCall len s).mode = s.mode := rfl
@[simp] theorem beginCall_declLen (len : Nat) (s : State) : (beginCall len s).declLen = s.declLen := rfl
@[simp] theorem beginCall_treeSel (len : Nat) (s : State) : (beginCall len s).treeSel = s.treeSel := rfl
@[simp] theorem beginCall_treeEnd (len : Nat) (s : State) : (beginCall len s).treeEnd = s.treeEnd := rfl
@[simp] theorem beginCall_root (len : Nat) (s : State) : (beginCall len s).root = s.root := rfl
@[simp] theorem beginCall_node (len : Nat) (s : State) : (beginCall len s).node = s.node := rfl
@[simp] theorem beginCall_pend (len : Nat) (s : State) : (beginCall len s).pend = s.pend := rfl
@[simp] theorem beginCall_bodyCur (len : Nat) (s : State) : (beginCall len s).bodyCur = s.bodyCur := rfl
@[simp] theorem beginCall_emitted (len : Nat) (s : State) : (beginCall len s).emitted = s.emitted := rfl
@[simp] theorem beginCall_nibFull (len : Nat) (s : State) : (beginCall len s).nibFull = s.nibFull := rfl
@[simp] theorem beginCall_nibHi (len : Nat) (s : State) : (beginCall len s).nibHi = s.nibHi := rfl
@[simp] theorem beginCall_inp (len : Nat) (s : State) : (beginCall len s).inp = s.inp := rfl
@[simp] theorem beginCall_out (len : Nat) (s : State) : (beginCall len s).out = s.out := rfl
@[simp] theorem beginCall_inputs (len : Nat) (s : State) : (beginCall len s).inputs = s.inputs := rfl
@[simp] theorem beginCall_info (len : Nat) (s : State) : (beginCall len s).info = s.info := rfl
@[simp] theorem beginCall_ret (len : Nat) (s : State) : (beginCall len s).ret = s.ret := rfl
@[simp] theorem beginCall_issue (len : Nat) (s : State) : (beginCall len s).issue = s.issue := rfl
@[simp] theorem beginCall_inStable (len : Nat) (s : State) : (beginCall len s).inStable = true := rfl
@[simp] theorem beginCall_draws (len : Nat) (s : State) : (beginCall len s).draws = s.draws := rfl

/-! ### resetBlock -/

@[simp] theorem resetBlock_cfg (s : State) : (resetBlock s).cfg = s.cfg := rfl
@[simp] theorem resetBlock_phase (s : State) : (resetBlock s).phase = .idle := rfl
@[simp] theorem resetBlock_err (s : State) : (resetBlock s).err = (Config.freeReset s.draws).err := rfl
@[simp] theorem resetBlock_inLen (s : State) : (resetBlock s).inLen = (Config.freeReset s.draws).inLen % 2 ^ (s.cfg.inAddrW + 1) := rfl
@[simp] theorem resetBlock_mode (s : State) : (resetBlock s).mode = (Config.freeReset s.draws).mode := rfl
@[simp] theorem resetBlock_declLen (s : State) : (resetBlock s).declLen = (Config.freeReset s.draws).declLen := rfl
@[simp] theorem resetBlock_treeSel (s : State) : (resetBlock s).treeSel = (Config.freeReset s.draws).treeSel := rfl
@[simp] theorem resetBlock_treeEnd (s : State) : (resetBlock s).treeEnd = (Config.freeReset s.draws).treeEnd := rfl
@[simp] theorem resetBlock_root (s : State) : (resetBlock s).root = nodeOf (Config.freeReset s.draws).root := rfl
@[simp] theorem resetBlock_node (s : State) : (resetBlock s).node = nodeOf (Config.freeReset s.draws).node := rfl
@[simp] theorem resetBlock_pend (s : State) : (resetBlock s).pend = ⟨(Config.freeReset s.draws).pendVal.toNat % 2 ^ (Config.freeReset s.draws).pendWidth.val,
      (Config.freeReset s.draws).pendWidth.val⟩ := rfl
@[simp] theorem resetBlock_bodyCur (s : State) : (resetBlock s).bodyCur = (Config.freeReset s.draws).bodyCur % 2 ^ bodyCurWidth s.cfg := rfl
@[simp] theorem resetBlock_emitted (s : State) : (resetBlock s).emitted = (Config.freeReset s.draws).emitted := rfl
@[simp] theorem resetBlock_nibFull (s : State) : (resetBlock s).nibFull = (Config.freeReset s.draws).nibFull := rfl
@[simp] theorem resetBlock_nibHi (s : State) : (resetBlock s).nibHi = (Config.freeReset s.draws).nibHi := rfl
@[simp] theorem resetBlock_inp (s : State) : (resetBlock s).inp = s.inp := rfl
@[simp] theorem resetBlock_out (s : State) : (resetBlock s).out = [] := rfl
@[simp] theorem resetBlock_inputs (s : State) : (resetBlock s).inputs = s.inputs := rfl
@[simp] theorem resetBlock_info (s : State) : (resetBlock s).info = s.info := rfl
@[simp] theorem resetBlock_ret (s : State) : (resetBlock s).ret = s.ret := rfl
@[simp] theorem resetBlock_issue (s : State) : (resetBlock s).issue = s.issue := rfl
@[simp] theorem resetBlock_inStable (s : State) : (resetBlock s).inStable = s.inStable := rfl
@[simp] theorem resetBlock_draws (s : State) : (resetBlock s).draws = s.draws + 1 := rfl

/-! ### takeDraw -/

@[simp] theorem takeDraw_cfg (s : State) : (takeDraw s).cfg = s.cfg := rfl
@[simp] theorem takeDraw_phase (s : State) : (takeDraw s).phase = s.phase := rfl
@[simp] theorem takeDraw_err (s : State) : (takeDraw s).err = s.err := rfl
@[simp] theorem takeDraw_inLen (s : State) : (takeDraw s).inLen = s.inLen := rfl
@[simp] theorem takeDraw_mode (s : State) : (takeDraw s).mode = s.mode := rfl
@[simp] theorem takeDraw_declLen (s : State) : (takeDraw s).declLen = s.declLen := rfl
@[simp] theorem takeDraw_treeSel (s : State) : (takeDraw s).treeSel = s.treeSel := rfl
@[simp] theorem takeDraw_treeEnd (s : State) : (takeDraw s).treeEnd = s.treeEnd := rfl
@[simp] theorem takeDraw_root (s : State) : (takeDraw s).root = s.root := rfl
@[simp] theorem takeDraw_node (s : State) : (takeDraw s).node = s.node := rfl
@[simp] theorem takeDraw_pend (s : State) : (takeDraw s).pend = s.pend := rfl
@[simp] theorem takeDraw_bodyCur (s : State) : (takeDraw s).bodyCur = s.bodyCur := rfl
@[simp] theorem takeDraw_emitted (s : State) : (takeDraw s).emitted = s.emitted := rfl
@[simp] theorem takeDraw_nibFull (s : State) : (takeDraw s).nibFull = s.nibFull := rfl
@[simp] theorem takeDraw_nibHi (s : State) : (takeDraw s).nibHi = s.nibHi := rfl
@[simp] theorem takeDraw_inp (s : State) : (takeDraw s).inp = s.inp := rfl
@[simp] theorem takeDraw_out (s : State) : (takeDraw s).out = s.out := rfl
@[simp] theorem takeDraw_inputs (s : State) : (takeDraw s).inputs = s.inputs := rfl
@[simp] theorem takeDraw_info (s : State) : (takeDraw s).info = s.info := rfl
@[simp] theorem takeDraw_ret (s : State) : (takeDraw s).ret = s.ret := rfl
@[simp] theorem takeDraw_issue (s : State) : (takeDraw s).issue = s.issue := rfl
@[simp] theorem takeDraw_inStable (s : State) : (takeDraw s).inStable = s.inStable := rfl
@[simp] theorem takeDraw_draws (s : State) : (takeDraw s).draws = s.draws + 1 := rfl

/-! ### toPhase -/

@[simp] theorem toPhase_cfg (p : Phase) (s : State) : (toPhase p s).cfg = s.cfg := rfl
@[simp] theorem toPhase_phase (p : Phase) (s : State) : (toPhase p s).phase = p := rfl
@[simp] theorem toPhase_err (p : Phase) (s : State) : (toPhase p s).err = s.err := rfl
@[simp] theorem toPhase_inLen (p : Phase) (s : State) : (toPhase p s).inLen = s.inLen := rfl
@[simp] theorem toPhase_mode (p : Phase) (s : State) : (toPhase p s).mode = s.mode := rfl
@[simp] theorem toPhase_declLen (p : Phase) (s : State) : (toPhase p s).declLen = s.declLen := rfl
@[simp] theorem toPhase_treeSel (p : Phase) (s : State) : (toPhase p s).treeSel = s.treeSel := rfl
@[simp] theorem toPhase_treeEnd (p : Phase) (s : State) : (toPhase p s).treeEnd = s.treeEnd := rfl
@[simp] theorem toPhase_root (p : Phase) (s : State) : (toPhase p s).root = s.root := rfl
@[simp] theorem toPhase_node (p : Phase) (s : State) : (toPhase p s).node = s.node := rfl
@[simp] theorem toPhase_pend (p : Phase) (s : State) : (toPhase p s).pend = s.pend := rfl
@[simp] theorem toPhase_bodyCur (p : Phase) (s : State) : (toPhase p s).bodyCur = s.bodyCur := rfl
@[simp] theorem toPhase_emitted (p : Phase) (s : State) : (toPhase p s).emitted = s.emitted := rfl
@[simp] theorem toPhase_nibFull (p : Phase) (s : State) : (toPhase p s).nibFull = s.nibFull := rfl
@[simp] theorem toPhase_nibHi (p : Phase) (s : State) : (toPhase p s).nibHi = s.nibHi := rfl
@[simp] theorem toPhase_inp (p : Phase) (s : State) : (toPhase p s).inp = s.inp := rfl
@[simp] theorem toPhase_out (p : Phase) (s : State) : (toPhase p s).out = s.out := rfl
@[simp] theorem toPhase_inputs (p : Phase) (s : State) : (toPhase p s).inputs = s.inputs := rfl
@[simp] theorem toPhase_info (p : Phase) (s : State) : (toPhase p s).info = s.info := rfl
@[simp] theorem toPhase_ret (p : Phase) (s : State) : (toPhase p s).ret = s.ret := rfl
@[simp] theorem toPhase_issue (p : Phase) (s : State) : (toPhase p s).issue = s.issue := rfl
@[simp] theorem toPhase_inStable (p : Phase) (s : State) : (toPhase p s).inStable = s.inStable := rfl
@[simp] theorem toPhase_draws (p : Phase) (s : State) : (toPhase p s).draws = s.draws := rfl

/-! ### setRet -/

@[simp] theorem setRet_cfg (r : Ret) (s : State) : (setRet r s).cfg = s.cfg := rfl
@[simp] theorem setRet_phase (r : Ret) (s : State) : (setRet r s).phase = s.phase := rfl
@[simp] theorem setRet_err (r : Ret) (s : State) : (setRet r s).err = s.err := rfl
@[simp] theorem setRet_inLen (r : Ret) (s : State) : (setRet r s).inLen = s.inLen := rfl
@[simp] theorem setRet_mode (r : Ret) (s : State) : (setRet r s).mode = s.mode := rfl
@[simp] theorem setRet_declLen (r : Ret) (s : State) : (setRet r s).declLen = s.declLen := rfl
@[simp] theorem setRet_treeSel (r : Ret) (s : State) : (setRet r s).treeSel = s.treeSel := rfl
@[simp] theorem setRet_treeEnd (r : Ret) (s : State) : (setRet r s).treeEnd = s.treeEnd := rfl
@[simp] theorem setRet_root (r : Ret) (s : State) : (setRet r s).root = s.root := rfl
@[simp] theorem setRet_node (r : Ret) (s : State) : (setRet r s).node = s.node := rfl
@[simp] theorem setRet_pend (r : Ret) (s : State) : (setRet r s).pend = s.pend := rfl
@[simp] theorem setRet_bodyCur (r : Ret) (s : State) : (setRet r s).bodyCur = s.bodyCur := rfl
@[simp] theorem setRet_emitted (r : Ret) (s : State) : (setRet r s).emitted = s.emitted := rfl
@[simp] theorem setRet_nibFull (r : Ret) (s : State) : (setRet r s).nibFull = s.nibFull := rfl
@[simp] theorem setRet_nibHi (r : Ret) (s : State) : (setRet r s).nibHi = s.nibHi := rfl
@[simp] theorem setRet_inp (r : Ret) (s : State) : (setRet r s).inp = s.inp := rfl
@[simp] theorem setRet_out (r : Ret) (s : State) : (setRet r s).out = s.out := rfl
@[simp] theorem setRet_inputs (r : Ret) (s : State) : (setRet r s).inputs = s.inputs := rfl
@[simp] theorem setRet_info (r : Ret) (s : State) : (setRet r s).info = s.info := rfl
@[simp] theorem setRet_ret (r : Ret) (s : State) : (setRet r s).ret = r := rfl
@[simp] theorem setRet_issue (r : Ret) (s : State) : (setRet r s).issue = s.issue := rfl
@[simp] theorem setRet_inStable (r : Ret) (s : State) : (setRet r s).inStable = s.inStable := rfl
@[simp] theorem setRet_draws (r : Ret) (s : State) : (setRet r s).draws = s.draws := rfl

/-! ### setLength -/

@[simp] theorem setLength_cfg (n : BitVec 24) (s : State) : (setLength n s).cfg = s.cfg := rfl
@[simp] theorem setLength_phase (n : BitVec 24) (s : State) : (setLength n s).phase = s.phase := rfl
@[simp] theorem setLength_err (n : BitVec 24) (s : State) : (setLength n s).err = s.err := rfl
@[simp] theorem setLength_inLen (n : BitVec 24) (s : State) : (setLength n s).inLen = s.inLen := rfl
@[simp] theorem setLength_mode (n : BitVec 24) (s : State) : (setLength n s).mode = s.mode := rfl
@[simp] theorem setLength_declLen (n : BitVec 24) (s : State) : (setLength n s).declLen = n := rfl
@[simp] theorem setLength_treeSel (n : BitVec 24) (s : State) : (setLength n s).treeSel = s.treeSel := rfl
@[simp] theorem setLength_treeEnd (n : BitVec 24) (s : State) : (setLength n s).treeEnd = s.treeEnd := rfl
@[simp] theorem setLength_root (n : BitVec 24) (s : State) : (setLength n s).root = s.root := rfl
@[simp] theorem setLength_node (n : BitVec 24) (s : State) : (setLength n s).node = s.node := rfl
@[simp] theorem setLength_pend (n : BitVec 24) (s : State) : (setLength n s).pend = s.pend := rfl
@[simp] theorem setLength_bodyCur (n : BitVec 24) (s : State) : (setLength n s).bodyCur = s.bodyCur := rfl
@[simp] theorem setLength_emitted (n : BitVec 24) (s : State) : (setLength n s).emitted = s.emitted := rfl
@[simp] theorem setLength_nibFull (n : BitVec 24) (s : State) : (setLength n s).nibFull = s.nibFull := rfl
@[simp] theorem setLength_nibHi (n : BitVec 24) (s : State) : (setLength n s).nibHi = s.nibHi := rfl
@[simp] theorem setLength_inp (n : BitVec 24) (s : State) : (setLength n s).inp = s.inp := rfl
@[simp] theorem setLength_out (n : BitVec 24) (s : State) : (setLength n s).out = s.out := rfl
@[simp] theorem setLength_inputs (n : BitVec 24) (s : State) : (setLength n s).inputs = s.inputs := rfl
@[simp] theorem setLength_info (n : BitVec 24) (s : State) : (setLength n s).info = s.info := rfl
@[simp] theorem setLength_ret (n : BitVec 24) (s : State) : (setLength n s).ret = s.ret := rfl
@[simp] theorem setLength_issue (n : BitVec 24) (s : State) : (setLength n s).issue = s.issue := rfl
@[simp] theorem setLength_inStable (n : BitVec 24) (s : State) : (setLength n s).inStable = s.inStable := rfl
@[simp] theorem setLength_draws (n : BitVec 24) (s : State) : (setLength n s).draws = s.draws := rfl

/-! ### setSelector -/

@[simp] theorem setSelector_cfg (b : Byte) (s : State) : (setSelector b s).cfg = s.cfg := rfl
@[simp] theorem setSelector_phase (b : Byte) (s : State) : (setSelector b s).phase = s.phase := rfl
@[simp] theorem setSelector_err (b : Byte) (s : State) : (setSelector b s).err = s.err := rfl
@[simp] theorem setSelector_inLen (b : Byte) (s : State) : (setSelector b s).inLen = s.inLen := rfl
@[simp] theorem setSelector_mode (b : Byte) (s : State) : (setSelector b s).mode = s.mode := rfl
@[simp] theorem setSelector_declLen (b : Byte) (s : State) : (setSelector b s).declLen = s.declLen := rfl
@[simp] theorem setSelector_treeSel (b : Byte) (s : State) : (setSelector b s).treeSel = b := rfl
@[simp] theorem setSelector_treeEnd (b : Byte) (s : State) : (setSelector b s).treeEnd = 4#10 + (b.setWidth 10 + 1#10) * 2#10 := rfl
@[simp] theorem setSelector_root (b : Byte) (s : State) : (setSelector b s).root = s.root := rfl
@[simp] theorem setSelector_node (b : Byte) (s : State) : (setSelector b s).node = s.node := rfl
@[simp] theorem setSelector_pend (b : Byte) (s : State) : (setSelector b s).pend = s.pend := rfl
@[simp] theorem setSelector_bodyCur (b : Byte) (s : State) : (setSelector b s).bodyCur = s.bodyCur := rfl
@[simp] theorem setSelector_emitted (b : Byte) (s : State) : (setSelector b s).emitted = s.emitted := rfl
@[simp] theorem setSelector_nibFull (b : Byte) (s : State) : (setSelector b s).nibFull = s.nibFull := rfl
@[simp] theorem setSelector_nibHi (b : Byte) (s : State) : (setSelector b s).nibHi = s.nibHi := rfl
@[simp] theorem setSelector_inp (b : Byte) (s : State) : (setSelector b s).inp = s.inp := rfl
@[simp] theorem setSelector_out (b : Byte) (s : State) : (setSelector b s).out = s.out := rfl
@[simp] theorem setSelector_inputs (b : Byte) (s : State) : (setSelector b s).inputs = s.inputs := rfl
@[simp] theorem setSelector_info (b : Byte) (s : State) : (setSelector b s).info = s.info := rfl
@[simp] theorem setSelector_ret (b : Byte) (s : State) : (setSelector b s).ret = s.ret := rfl
@[simp] theorem setSelector_issue (b : Byte) (s : State) : (setSelector b s).issue = s.issue := rfl
@[simp] theorem setSelector_inStable (b : Byte) (s : State) : (setSelector b s).inStable = s.inStable := rfl
@[simp] theorem setSelector_draws (b : Byte) (s : State) : (setSelector b s).draws = s.draws := rfl

/-! ### bodyInit -/

@[simp] theorem bodyInit_cfg (r : Trie) (s : State) : (bodyInit r s).cfg = s.cfg := rfl
@[simp] theorem bodyInit_phase (r : Trie) (s : State) : (bodyInit r s).phase = s.phase := rfl
@[simp] theorem bodyInit_err (r : Trie) (s : State) : (bodyInit r s).err = s.err := rfl
@[simp] theorem bodyInit_inLen (r : Trie) (s : State) : (bodyInit r s).inLen = s.inLen := rfl
@[simp] theorem bodyInit_mode (r : Trie) (s : State) : (bodyInit r s).mode = s.mode := rfl
@[simp] theorem bodyInit_declLen (r : Trie) (s : State) : (bodyInit r s).declLen = s.declLen := rfl
@[simp] theorem bodyInit_treeSel (r : Trie) (s : State) : (bodyInit r s).treeSel = s.treeSel := rfl
@[simp] theorem bodyInit_treeEnd (r : Trie) (s : State) : (bodyInit r s).treeEnd = s.treeEnd := rfl
@[simp] theorem bodyInit_root (r : Trie) (s : State) : (bodyInit r s).root = r := rfl
@[simp] theorem bodyInit_node (r : Trie) (s : State) : (bodyInit r s).node = s.node := rfl
@[simp] theorem bodyInit_pend (r : Trie) (s : State) : (bodyInit r s).pend = BitValue.empty := rfl
@[simp] theorem bodyInit_bodyCur (r : Trie) (s : State) : (bodyInit r s).bodyCur = s.treeEnd.toNat := rfl
@[simp] theorem bodyInit_emitted (r : Trie) (s : State) : (bodyInit r s).emitted = 0#24 := rfl
@[simp] theorem bodyInit_nibFull (r : Trie) (s : State) : (bodyInit r s).nibFull = false := rfl
@[simp] theorem bodyInit_nibHi (r : Trie) (s : State) : (bodyInit r s).nibHi = s.nibHi := rfl
@[simp] theorem bodyInit_inp (r : Trie) (s : State) : (bodyInit r s).inp = s.inp := rfl
@[simp] theorem bodyInit_out (r : Trie) (s : State) : (bodyInit r s).out = s.out := rfl
@[simp] theorem bodyInit_inputs (r : Trie) (s : State) : (bodyInit r s).inputs = s.inputs := rfl
@[simp] theorem bodyInit_info (r : Trie) (s : State) : (bodyInit r s).info = s.info := rfl
@[simp] theorem bodyInit_ret (r : Trie) (s : State) : (bodyInit r s).ret = s.ret := rfl
@[simp] theorem bodyInit_issue (r : Trie) (s : State) : (bodyInit r s).issue = s.issue := rfl
@[simp] theorem bodyInit_inStable (r : Trie) (s : State) : (bodyInit r s).inStable = s.inStable := rfl
@[simp] theorem bodyInit_draws (r : Trie) (s : State) : (bodyInit r s).draws = s.draws := rfl

/-! ### setNode -/

@[simp] theorem setNode_cfg (n : Trie) (s : State) : (setNode n s).cfg = s.cfg := rfl
@[simp] theorem setNode_phase (n : Trie) (s : State) : (setNode n s).phase = s.phase := rfl
@[simp] theorem setNode_err (n : Trie) (s : State) : (setNode n s).err = s.err := rfl
@[simp] theorem setNode_inLen (n : Trie) (s : State) : (setNode n s).inLen = s.inLen := rfl
@[simp] theorem setNode_mode (n : Trie) (s : State) : (setNode n s).mode = s.mode := rfl
@[simp] theorem setNode_declLen (n : Trie) (s : State) : (setNode n s).declLen = s.declLen := rfl
@[simp] theorem setNode_treeSel (n : Trie) (s : State) : (setNode n s).treeSel = s.treeSel := rfl
@[simp] theorem setNode_treeEnd (n : Trie) (s : State) : (setNode n s).treeEnd = s.treeEnd := rfl
@[simp] theorem setNode_root (n : Trie) (s : State) : (setNode n s).root = s.root := rfl
@[simp] theorem setNode_node (n : Trie) (s : State) : (setNode n s).node = n := rfl
@[simp] theorem setNode_pend (n : Trie) (s : State) : (setNode n s).pend = s.pend := rfl
@[simp] theorem setNode_bodyCur (n : Trie) (s : State) : (setNode n s).bodyCur = s.bodyCur := rfl
@[simp] theorem setNode_emitted (n : Trie) (s : State) : (setNode n s).emitted = s.emitted := rfl
@[simp] theorem setNode_nibFull (n : Trie) (s : State) : (setNode n s).nibFull = s.nibFull := rfl
@[simp] theorem setNode_nibHi (n : Trie) (s : State) : (setNode n s).nibHi = s.nibHi := rfl
@[simp] theorem setNode_inp (n : Trie) (s : State) : (setNode n s).inp = s.inp := rfl
@[simp] theorem setNode_out (n : Trie) (s : State) : (setNode n s).out = s.out := rfl
@[simp] theorem setNode_inputs (n : Trie) (s : State) : (setNode n s).inputs = s.inputs := rfl
@[simp] theorem setNode_info (n : Trie) (s : State) : (setNode n s).info = s.info := rfl
@[simp] theorem setNode_ret (n : Trie) (s : State) : (setNode n s).ret = s.ret := rfl
@[simp] theorem setNode_issue (n : Trie) (s : State) : (setNode n s).issue = s.issue := rfl
@[simp] theorem setNode_inStable (n : Trie) (s : State) : (setNode n s).inStable = s.inStable := rfl
@[simp] theorem setNode_draws (n : Trie) (s : State) : (setNode n s).draws = s.draws := rfl

/-! ### setPend -/

@[simp] theorem setPend_cfg (x : BitValue) (s : State) : (setPend x s).cfg = s.cfg := rfl
@[simp] theorem setPend_phase (x : BitValue) (s : State) : (setPend x s).phase = s.phase := rfl
@[simp] theorem setPend_err (x : BitValue) (s : State) : (setPend x s).err = s.err := rfl
@[simp] theorem setPend_inLen (x : BitValue) (s : State) : (setPend x s).inLen = s.inLen := rfl
@[simp] theorem setPend_mode (x : BitValue) (s : State) : (setPend x s).mode = s.mode := rfl
@[simp] theorem setPend_declLen (x : BitValue) (s : State) : (setPend x s).declLen = s.declLen := rfl
@[simp] theorem setPend_treeSel (x : BitValue) (s : State) : (setPend x s).treeSel = s.treeSel := rfl
@[simp] theorem setPend_treeEnd (x : BitValue) (s : State) : (setPend x s).treeEnd = s.treeEnd := rfl
@[simp] theorem setPend_root (x : BitValue) (s : State) : (setPend x s).root = s.root := rfl
@[simp] theorem setPend_node (x : BitValue) (s : State) : (setPend x s).node = s.node := rfl
@[simp] theorem setPend_pend (x : BitValue) (s : State) : (setPend x s).pend = x := rfl
@[simp] theorem setPend_bodyCur (x : BitValue) (s : State) : (setPend x s).bodyCur = s.bodyCur := rfl
@[simp] theorem setPend_emitted (x : BitValue) (s : State) : (setPend x s).emitted = s.emitted := rfl
@[simp] theorem setPend_nibFull (x : BitValue) (s : State) : (setPend x s).nibFull = s.nibFull := rfl
@[simp] theorem setPend_nibHi (x : BitValue) (s : State) : (setPend x s).nibHi = s.nibHi := rfl
@[simp] theorem setPend_inp (x : BitValue) (s : State) : (setPend x s).inp = s.inp := rfl
@[simp] theorem setPend_out (x : BitValue) (s : State) : (setPend x s).out = s.out := rfl
@[simp] theorem setPend_inputs (x : BitValue) (s : State) : (setPend x s).inputs = s.inputs := rfl
@[simp] theorem setPend_info (x : BitValue) (s : State) : (setPend x s).info = s.info := rfl
@[simp] theorem setPend_ret (x : BitValue) (s : State) : (setPend x s).ret = s.ret := rfl
@[simp] theorem setPend_issue (x : BitValue) (s : State) : (setPend x s).issue = s.issue := rfl
@[simp] theorem setPend_inStable (x : BitValue) (s : State) : (setPend x s).inStable = s.inStable := rfl
@[simp] theorem setPend_draws (x : BitValue) (s : State) : (setPend x s).draws = s.draws := rfl

/-! ### advanceBody -/

@[simp] theorem advanceBody_cfg (s : State) : (advanceBody s).cfg = s.cfg := rfl
@[simp] theorem advanceBody_phase (s : State) : (advanceBody s).phase = s.phase := rfl
@[simp] theorem advanceBody_err (s : State) : (advanceBody s).err = s.err := rfl
@[simp] theorem advanceBody_inLen (s : State) : (advanceBody s).inLen = s.inLen := rfl
@[simp] theorem advanceBody_mode (s : State) : (advanceBody s).mode = s.mode := rfl
@[simp] theorem advanceBody_declLen (s : State) : (advanceBody s).declLen = s.declLen := rfl
@[simp] theorem advanceBody_treeSel (s : State) : (advanceBody s).treeSel = s.treeSel := rfl
@[simp] theorem advanceBody_treeEnd (s : State) : (advanceBody s).treeEnd = s.treeEnd := rfl
@[simp] theorem advanceBody_root (s : State) : (advanceBody s).root = s.root := rfl
@[simp] theorem advanceBody_node (s : State) : (advanceBody s).node = s.node := rfl
@[simp] theorem advanceBody_pend (s : State) : (advanceBody s).pend = s.pend := rfl
@[simp] theorem advanceBody_bodyCur (s : State) : (advanceBody s).bodyCur = s.bodyCur + 4 := rfl
@[simp] theorem advanceBody_emitted (s : State) : (advanceBody s).emitted = s.emitted := rfl
@[simp] theorem advanceBody_nibFull (s : State) : (advanceBody s).nibFull = s.nibFull := rfl
@[simp] theorem advanceBody_nibHi (s : State) : (advanceBody s).nibHi = s.nibHi := rfl
@[simp] theorem advanceBody_inp (s : State) : (advanceBody s).inp = s.inp := rfl
@[simp] theorem advanceBody_out (s : State) : (advanceBody s).out = s.out := rfl
@[simp] theorem advanceBody_inputs (s : State) : (advanceBody s).inputs = s.inputs := rfl
@[simp] theorem advanceBody_info (s : State) : (advanceBody s).info = s.info := rfl
@[simp] theorem advanceBody_ret (s : State) : (advanceBody s).ret = s.ret := rfl
@[simp] theorem advanceBody_issue (s : State) : (advanceBody s).issue = s.issue := rfl
@[simp] theorem advanceBody_inStable (s : State) : (advanceBody s).inStable = s.inStable := rfl
@[simp] theorem advanceBody_draws (s : State) : (advanceBody s).draws = s.draws := rfl

/-! ### putByte -/

@[simp] theorem putByte_cfg (b : Byte) (s : State) : (putByte b s).cfg = s.cfg := rfl
@[simp] theorem putByte_phase (b : Byte) (s : State) : (putByte b s).phase = s.phase := rfl
@[simp] theorem putByte_err (b : Byte) (s : State) : (putByte b s).err = s.err := rfl
@[simp] theorem putByte_inLen (b : Byte) (s : State) : (putByte b s).inLen = s.inLen := rfl
@[simp] theorem putByte_mode (b : Byte) (s : State) : (putByte b s).mode = s.mode := rfl
@[simp] theorem putByte_declLen (b : Byte) (s : State) : (putByte b s).declLen = s.declLen := rfl
@[simp] theorem putByte_treeSel (b : Byte) (s : State) : (putByte b s).treeSel = s.treeSel := rfl
@[simp] theorem putByte_treeEnd (b : Byte) (s : State) : (putByte b s).treeEnd = s.treeEnd := rfl
@[simp] theorem putByte_root (b : Byte) (s : State) : (putByte b s).root = s.root := rfl
@[simp] theorem putByte_node (b : Byte) (s : State) : (putByte b s).node = s.node := rfl
@[simp] theorem putByte_pend (b : Byte) (s : State) : (putByte b s).pend = s.pend := rfl
@[simp] theorem putByte_bodyCur (b : Byte) (s : State) : (putByte b s).bodyCur = s.bodyCur := rfl
@[simp] theorem putByte_emitted (b : Byte) (s : State) : (putByte b s).emitted = s.emitted + 1#24 := rfl
@[simp] theorem putByte_nibFull (b : Byte) (s : State) : (putByte b s).nibFull = s.nibFull := rfl
@[simp] theorem putByte_nibHi (b : Byte) (s : State) : (putByte b s).nibHi = s.nibHi := rfl
@[simp] theorem putByte_inp (b : Byte) (s : State) : (putByte b s).inp = s.inp := rfl
@[simp] theorem putByte_out (b : Byte) (s : State) : (putByte b s).out = memWrite s.out s.emitted.toNat b := rfl
@[simp] theorem putByte_inputs (b : Byte) (s : State) : (putByte b s).inputs = s.inputs := rfl
@[simp] theorem putByte_info (b : Byte) (s : State) : (putByte b s).info = s.info := rfl
@[simp] theorem putByte_ret (b : Byte) (s : State) : (putByte b s).ret = s.ret := rfl
@[simp] theorem putByte_issue (b : Byte) (s : State) : (putByte b s).issue = s.issue := rfl
@[simp] theorem putByte_inStable (b : Byte) (s : State) : (putByte b s).inStable = s.inStable := rfl
@[simp] theorem putByte_draws (b : Byte) (s : State) : (putByte b s).draws = s.draws := rfl

/-! ### hostPutIn -/

@[simp] theorem hostPutIn_cfg (a : Nat) (b : Byte) (s : State) : (hostPutIn a b s).cfg = s.cfg := rfl
@[simp] theorem hostPutIn_phase (a : Nat) (b : Byte) (s : State) : (hostPutIn a b s).phase = s.phase := rfl
@[simp] theorem hostPutIn_err (a : Nat) (b : Byte) (s : State) : (hostPutIn a b s).err = s.err := rfl
@[simp] theorem hostPutIn_inLen (a : Nat) (b : Byte) (s : State) : (hostPutIn a b s).inLen = s.inLen := rfl
@[simp] theorem hostPutIn_mode (a : Nat) (b : Byte) (s : State) : (hostPutIn a b s).mode = s.mode := rfl
@[simp] theorem hostPutIn_declLen (a : Nat) (b : Byte) (s : State) : (hostPutIn a b s).declLen = s.declLen := rfl
@[simp] theorem hostPutIn_treeSel (a : Nat) (b : Byte) (s : State) : (hostPutIn a b s).treeSel = s.treeSel := rfl
@[simp] theorem hostPutIn_treeEnd (a : Nat) (b : Byte) (s : State) : (hostPutIn a b s).treeEnd = s.treeEnd := rfl
@[simp] theorem hostPutIn_root (a : Nat) (b : Byte) (s : State) : (hostPutIn a b s).root = s.root := rfl
@[simp] theorem hostPutIn_node (a : Nat) (b : Byte) (s : State) : (hostPutIn a b s).node = s.node := rfl
@[simp] theorem hostPutIn_pend (a : Nat) (b : Byte) (s : State) : (hostPutIn a b s).pend = s.pend := rfl
@[simp] theorem hostPutIn_bodyCur (a : Nat) (b : Byte) (s : State) : (hostPutIn a b s).bodyCur = s.bodyCur := rfl
@[simp] theorem hostPutIn_emitted (a : Nat) (b : Byte) (s : State) : (hostPutIn a b s).emitted = s.emitted := rfl
@[simp] theorem hostPutIn_nibFull (a : Nat) (b : Byte) (s : State) : (hostPutIn a b s).nibFull = s.nibFull := rfl
@[simp] theorem hostPutIn_nibHi (a : Nat) (b : Byte) (s : State) : (hostPutIn a b s).nibHi = s.nibHi := rfl
@[simp] theorem hostPutIn_inp (a : Nat) (b : Byte) (s : State) : (hostPutIn a b s).inp = memWrite s.inp a b := rfl
@[simp] theorem hostPutIn_out (a : Nat) (b : Byte) (s : State) : (hostPutIn a b s).out = s.out := rfl
@[simp] theorem hostPutIn_inputs (a : Nat) (b : Byte) (s : State) : (hostPutIn a b s).inputs = s.inputs := rfl
@[simp] theorem hostPutIn_info (a : Nat) (b : Byte) (s : State) : (hostPutIn a b s).info = s.info := rfl
@[simp] theorem hostPutIn_ret (a : Nat) (b : Byte) (s : State) : (hostPutIn a b s).ret = s.ret := rfl
@[simp] theorem hostPutIn_issue (a : Nat) (b : Byte) (s : State) : (hostPutIn a b s).issue = s.issue := rfl
@[simp] theorem hostPutIn_inStable (a : Nat) (b : Byte) (s : State) : (hostPutIn a b s).inStable = (s.inStable && !busy s.phase) := rfl
@[simp] theorem hostPutIn_draws (a : Nat) (b : Byte) (s : State) : (hostPutIn a b s).draws = s.draws := rfl

/-! ### keepInputs -/

@[simp] theorem keepInputs_cfg (rest : List HostInput) (s : State) : (keepInputs rest s).cfg = s.cfg := rfl
@[simp] theorem keepInputs_phase (rest : List HostInput) (s : State) : (keepInputs rest s).phase = s.phase := rfl
@[simp] theorem keepInputs_err (rest : List HostInput) (s : State) : (keepInputs rest s).err = s.err := rfl
@[simp] theorem keepInputs_inLen (rest : List HostInput) (s : State) : (keepInputs rest s).inLen = s.inLen := rfl
@[simp] theorem keepInputs_mode (rest : List HostInput) (s : State) : (keepInputs rest s).mode = s.mode := rfl
@[simp] theorem keepInputs_declLen (rest : List HostInput) (s : State) : (keepInputs rest s).declLen = s.declLen := rfl
@[simp] theorem keepInputs_treeSel (rest : List HostInput) (s : State) : (keepInputs rest s).treeSel = s.treeSel := rfl
@[simp] theorem keepInputs_treeEnd (rest : List HostInput) (s : State) : (keepInputs rest s).treeEnd = s.treeEnd := rfl
@[simp] theorem keepInputs_root (rest : List HostInput) (s : State) : (keepInputs rest s).root = s.root := rfl
@[simp] theorem keepInputs_node (rest : List HostInput) (s : State) : (keepInputs rest s).node = s.node := rfl
@[simp] theorem keepInputs_pend (rest : List HostInput) (s : State) : (keepInputs rest s).pend = s.pend := rfl
@[simp] theorem keepInputs_bodyCur (rest : List HostInput) (s : State) : (keepInputs rest s).bodyCur = s.bodyCur := rfl
@[simp] theorem keepInputs_emitted (rest : List HostInput) (s : State) : (keepInputs rest s).emitted = s.emitted := rfl
@[simp] theorem keepInputs_nibFull (rest : List HostInput) (s : State) : (keepInputs rest s).nibFull = s.nibFull := rfl
@[simp] theorem keepInputs_nibHi (rest : List HostInput) (s : State) : (keepInputs rest s).nibHi = s.nibHi := rfl
@[simp] theorem keepInputs_inp (rest : List HostInput) (s : State) : (keepInputs rest s).inp = s.inp := rfl
@[simp] theorem keepInputs_out (rest : List HostInput) (s : State) : (keepInputs rest s).out = s.out := rfl
@[simp] theorem keepInputs_inputs (rest : List HostInput) (s : State) : (keepInputs rest s).inputs = rest := rfl
@[simp] theorem keepInputs_info (rest : List HostInput) (s : State) : (keepInputs rest s).info = s.info := rfl
@[simp] theorem keepInputs_ret (rest : List HostInput) (s : State) : (keepInputs rest s).ret = s.ret := rfl
@[simp] theorem keepInputs_issue (rest : List HostInput) (s : State) : (keepInputs rest s).issue = s.issue := rfl
@[simp] theorem keepInputs_inStable (rest : List HostInput) (s : State) : (keepInputs rest s).inStable = s.inStable := rfl
@[simp] theorem keepInputs_draws (rest : List HostInput) (s : State) : (keepInputs rest s).draws = s.draws := rfl

/-! ### takeIssue -/

@[simp] theorem takeIssue_cfg (s : State) : (takeIssue s).cfg = s.cfg := rfl
@[simp] theorem takeIssue_phase (s : State) : (takeIssue s).phase = s.phase := rfl
@[simp] theorem takeIssue_err (s : State) : (takeIssue s).err = s.err := rfl
@[simp] theorem takeIssue_inLen (s : State) : (takeIssue s).inLen = s.inLen := rfl
@[simp] theorem takeIssue_mode (s : State) : (takeIssue s).mode = s.mode := rfl
@[simp] theorem takeIssue_declLen (s : State) : (takeIssue s).declLen = s.declLen := rfl
@[simp] theorem takeIssue_treeSel (s : State) : (takeIssue s).treeSel = s.treeSel := rfl
@[simp] theorem takeIssue_treeEnd (s : State) : (takeIssue s).treeEnd = s.treeEnd := rfl
@[simp] theorem takeIssue_root (s : State) : (takeIssue s).root = s.root := rfl
@[simp] theorem takeIssue_node (s : State) : (takeIssue s).node = s.node := rfl
@[simp] theorem takeIssue_pend (s : State) : (takeIssue s).pend = s.pend := rfl
@[simp] theorem takeIssue_bodyCur (s : State) : (takeIssue s).bodyCur = s.bodyCur := rfl
@[simp] theorem takeIssue_emitted (s : State) : (takeIssue s).emitted = s.emitted := rfl
@[simp] theorem takeIssue_nibFull (s : State) : (takeIssue s).nibFull = s.nibFull := rfl
@[simp] theorem takeIssue_nibHi (s : State) : (takeIssue s).nibHi = s.nibHi := rfl
@[simp] theorem takeIssue_inp (s : State) : (takeIssue s).inp = s.inp := rfl
@[simp] theorem takeIssue_out (s : State) : (takeIssue s).out = s.out := rfl
@[simp] theorem takeIssue_inputs (s : State) : (takeIssue s).inputs = s.inputs := rfl
@[simp] theorem takeIssue_info (s : State) : (takeIssue s).info = s.info := rfl
@[simp] theorem takeIssue_ret (s : State) : (takeIssue s).ret = s.ret := rfl
@[simp] theorem takeIssue_issue (s : State) : (takeIssue s).issue = none := rfl
@[simp] theorem takeIssue_inStable (s : State) : (takeIssue s).inStable = s.inStable := rfl
@[simp] theorem takeIssue_draws (s : State) : (takeIssue s).draws = s.draws := rfl

/-! ### setMode -/

@[simp] theorem setMode_cfg (m : Mode) (s : State) : (setMode m s).cfg = s.cfg := rfl
@[simp] theorem setMode_phase (m : Mode) (s : State) : (setMode m s).phase = s.phase := rfl
@[simp] theorem setMode_err (m : Mode) (s : State) : (setMode m s).err = s.err := rfl
@[simp] theorem setMode_inLen (m : Mode) (s : State) : (setMode m s).inLen = s.inLen := rfl
@[simp] theorem setMode_mode (m : Mode) (s : State) : (setMode m s).mode = m := rfl
@[simp] theorem setMode_declLen (m : Mode) (s : State) : (setMode m s).declLen = s.declLen := rfl
@[simp] theorem setMode_treeSel (m : Mode) (s : State) : (setMode m s).treeSel = s.treeSel := rfl
@[simp] theorem setMode_treeEnd (m : Mode) (s : State) : (setMode m s).treeEnd = s.treeEnd := rfl
@[simp] theorem setMode_root (m : Mode) (s : State) : (setMode m s).root = s.root := rfl
@[simp] theorem setMode_node (m : Mode) (s : State) : (setMode m s).node = s.node := rfl
@[simp] theorem setMode_pend (m : Mode) (s : State) : (setMode m s).pend = s.pend := rfl
@[simp] theorem setMode_bodyCur (m : Mode) (s : State) : (setMode m s).bodyCur = s.bodyCur := rfl
@[simp] theorem setMode_emitted (m : Mode) (s : State) : (setMode m s).emitted = s.emitted := rfl
@[simp] theorem setMode_nibFull (m : Mode) (s : State) : (setMode m s).nibFull = s.nibFull := rfl
@[simp] theorem setMode_nibHi (m : Mode) (s : State) : (setMode m s).nibHi = s.nibHi := rfl
@[simp] theorem setMode_inp (m : Mode) (s : State) : (setMode m s).inp = s.inp := rfl
@[simp] theorem setMode_out (m : Mode) (s : State) : (setMode m s).out = s.out := rfl
@[simp] theorem setMode_inputs (m : Mode) (s : State) : (setMode m s).inputs = s.inputs := rfl
@[simp] theorem setMode_info (m : Mode) (s : State) : (setMode m s).info = s.info := rfl
@[simp] theorem setMode_ret (m : Mode) (s : State) : (setMode m s).ret = s.ret := rfl
@[simp] theorem setMode_issue (m : Mode) (s : State) : (setMode m s).issue = s.issue := rfl
@[simp] theorem setMode_inStable (m : Mode) (s : State) : (setMode m s).inStable = s.inStable := rfl
@[simp] theorem setMode_draws (m : Mode) (s : State) : (setMode m s).draws = s.draws := rfl

/-! ### holdNibble -/

@[simp] theorem holdNibble_cfg (b : Byte) (s : State) : (holdNibble b s).cfg = s.cfg := rfl
@[simp] theorem holdNibble_phase (b : Byte) (s : State) : (holdNibble b s).phase = s.phase := rfl
@[simp] theorem holdNibble_err (b : Byte) (s : State) : (holdNibble b s).err = s.err := rfl
@[simp] theorem holdNibble_inLen (b : Byte) (s : State) : (holdNibble b s).inLen = s.inLen := rfl
@[simp] theorem holdNibble_mode (b : Byte) (s : State) : (holdNibble b s).mode = s.mode := rfl
@[simp] theorem holdNibble_declLen (b : Byte) (s : State) : (holdNibble b s).declLen = s.declLen := rfl
@[simp] theorem holdNibble_treeSel (b : Byte) (s : State) : (holdNibble b s).treeSel = s.treeSel := rfl
@[simp] theorem holdNibble_treeEnd (b : Byte) (s : State) : (holdNibble b s).treeEnd = s.treeEnd := rfl
@[simp] theorem holdNibble_root (b : Byte) (s : State) : (holdNibble b s).root = s.root := rfl
@[simp] theorem holdNibble_node (b : Byte) (s : State) : (holdNibble b s).node = s.node := rfl
@[simp] theorem holdNibble_pend (b : Byte) (s : State) : (holdNibble b s).pend = s.pend := rfl
@[simp] theorem holdNibble_bodyCur (b : Byte) (s : State) : (holdNibble b s).bodyCur = s.bodyCur := rfl
@[simp] theorem holdNibble_emitted (b : Byte) (s : State) : (holdNibble b s).emitted = s.emitted := rfl
@[simp] theorem holdNibble_nibFull (b : Byte) (s : State) : (holdNibble b s).nibFull = true := rfl
@[simp] theorem holdNibble_nibHi (b : Byte) (s : State) : (holdNibble b s).nibHi = b <<< 4 := rfl
@[simp] theorem holdNibble_inp (b : Byte) (s : State) : (holdNibble b s).inp = s.inp := rfl
@[simp] theorem holdNibble_out (b : Byte) (s : State) : (holdNibble b s).out = s.out := rfl
@[simp] theorem holdNibble_inputs (b : Byte) (s : State) : (holdNibble b s).inputs = s.inputs := rfl
@[simp] theorem holdNibble_info (b : Byte) (s : State) : (holdNibble b s).info = s.info := rfl
@[simp] theorem holdNibble_ret (b : Byte) (s : State) : (holdNibble b s).ret = s.ret := rfl
@[simp] theorem holdNibble_issue (b : Byte) (s : State) : (holdNibble b s).issue = s.issue := rfl
@[simp] theorem holdNibble_inStable (b : Byte) (s : State) : (holdNibble b s).inStable = s.inStable := rfl
@[simp] theorem holdNibble_draws (b : Byte) (s : State) : (holdNibble b s).draws = s.draws := rfl

/-! ### releaseNibble -/

@[simp] theorem releaseNibble_cfg (s : State) : (releaseNibble s).cfg = s.cfg := rfl
@[simp] theorem releaseNibble_phase (s : State) : (releaseNibble s).phase = s.phase := rfl
@[simp] theorem releaseNibble_err (s : State) : (releaseNibble s).err = s.err := rfl
@[simp] theorem releaseNibble_inLen (s : State) : (releaseNibble s).inLen = s.inLen := rfl
@[simp] theorem releaseNibble_mode (s : State) : (releaseNibble s).mode = s.mode := rfl
@[simp] theorem releaseNibble_declLen (s : State) : (releaseNibble s).declLen = s.declLen := rfl
@[simp] theorem releaseNibble_treeSel (s : State) : (releaseNibble s).treeSel = s.treeSel := rfl
@[simp] theorem releaseNibble_treeEnd (s : State) : (releaseNibble s).treeEnd = s.treeEnd := rfl
@[simp] theorem releaseNibble_root (s : State) : (releaseNibble s).root = s.root := rfl
@[simp] theorem releaseNibble_node (s : State) : (releaseNibble s).node = s.node := rfl
@[simp] theorem releaseNibble_pend (s : State) : (releaseNibble s).pend = s.pend := rfl
@[simp] theorem releaseNibble_bodyCur (s : State) : (releaseNibble s).bodyCur = s.bodyCur := rfl
@[simp] theorem releaseNibble_emitted (s : State) : (releaseNibble s).emitted = s.emitted := rfl
@[simp] theorem releaseNibble_nibFull (s : State) : (releaseNibble s).nibFull = false := rfl
@[simp] theorem releaseNibble_nibHi (s : State) : (releaseNibble s).nibHi = s.nibHi := rfl
@[simp] theorem releaseNibble_inp (s : State) : (releaseNibble s).inp = s.inp := rfl
@[simp] theorem releaseNibble_out (s : State) : (releaseNibble s).out = s.out := rfl
@[simp] theorem releaseNibble_inputs (s : State) : (releaseNibble s).inputs = s.inputs := rfl
@[simp] theorem releaseNibble_info (s : State) : (releaseNibble s).info = s.info := rfl
@[simp] theorem releaseNibble_ret (s : State) : (releaseNibble s).ret = s.ret := rfl
@[simp] theorem releaseNibble_issue (s : State) : (releaseNibble s).issue = s.issue := rfl
@[simp] theorem releaseNibble_inStable (s : State) : (releaseNibble s).inStable = s.inStable := rfl
@[simp] theorem releaseNibble_draws (s : State) : (releaseNibble s).draws = s.draws := rfl

/-! ### noteRead: only `draws`, and only when the host has changed IN during the call -/

@[simp] theorem noteRead_cfg (s : State) : (noteRead s).cfg = s.cfg := by
  unfold noteRead; split <;> rfl
@[simp] theorem noteRead_phase (s : State) : (noteRead s).phase = s.phase := by
  unfold noteRead; split <;> rfl
@[simp] theorem noteRead_err (s : State) : (noteRead s).err = s.err := by
  unfold noteRead; split <;> rfl
@[simp] theorem noteRead_inLen (s : State) : (noteRead s).inLen = s.inLen := by
  unfold noteRead; split <;> rfl
@[simp] theorem noteRead_mode (s : State) : (noteRead s).mode = s.mode := by
  unfold noteRead; split <;> rfl
@[simp] theorem noteRead_declLen (s : State) : (noteRead s).declLen = s.declLen := by
  unfold noteRead; split <;> rfl
@[simp] theorem noteRead_treeSel (s : State) : (noteRead s).treeSel = s.treeSel := by
  unfold noteRead; split <;> rfl
@[simp] theorem noteRead_treeEnd (s : State) : (noteRead s).treeEnd = s.treeEnd := by
  unfold noteRead; split <;> rfl
@[simp] theorem noteRead_root (s : State) : (noteRead s).root = s.root := by
  unfold noteRead; split <;> rfl
@[simp] theorem noteRead_node (s : State) : (noteRead s).node = s.node := by
  unfold noteRead; split <;> rfl
@[simp] theorem noteRead_pend (s : State) : (noteRead s).pend = s.pend := by
  unfold noteRead; split <;> rfl
@[simp] theorem noteRead_bodyCur (s : State) : (noteRead s).bodyCur = s.bodyCur := by
  unfold noteRead; split <;> rfl
@[simp] theorem noteRead_emitted (s : State) : (noteRead s).emitted = s.emitted := by
  unfold noteRead; split <;> rfl
@[simp] theorem noteRead_nibFull (s : State) : (noteRead s).nibFull = s.nibFull := by
  unfold noteRead; split <;> rfl
@[simp] theorem noteRead_nibHi (s : State) : (noteRead s).nibHi = s.nibHi := by
  unfold noteRead; split <;> rfl
@[simp] theorem noteRead_inp (s : State) : (noteRead s).inp = s.inp := by
  unfold noteRead; split <;> rfl
@[simp] theorem noteRead_out (s : State) : (noteRead s).out = s.out := by
  unfold noteRead; split <;> rfl
@[simp] theorem noteRead_inputs (s : State) : (noteRead s).inputs = s.inputs := by
  unfold noteRead; split <;> rfl
@[simp] theorem noteRead_info (s : State) : (noteRead s).info = s.info := by
  unfold noteRead; split <;> rfl
@[simp] theorem noteRead_ret (s : State) : (noteRead s).ret = s.ret := by
  unfold noteRead; split <;> rfl
@[simp] theorem noteRead_issue (s : State) : (noteRead s).issue = s.issue := by
  unfold noteRead; split <;> rfl
@[simp] theorem noteRead_inStable (s : State) : (noteRead s).inStable = s.inStable := by
  unfold noteRead; split <;> rfl
@[simp] theorem noteRead_draws (s : State) :
    (noteRead s).draws = if s.inStable then s.draws else s.draws + 1 := by
  unfold noteRead; split <;> rfl

/-- noteRead as one record update. -/
theorem noteRead_eq (s : State) :
    noteRead s = { s with draws := if s.inStable then s.draws else s.draws + 1 } := by
  unfold noteRead
  by_cases h : s.inStable = true
  · rw [if_pos h, if_pos h]
  · rw [if_neg h, if_neg h]; rfl

/-- noteRead changes nothing while IN is stable. -/
theorem noteRead_stable (s : State) (h : s.inStable = true) : noteRead s = s := by
  rw [noteRead, if_pos h]

end Sys2Proof.Machine
end

