-- ==== Sys2Proof/Laws/Memory.lean ====
section
/-! SUPPORT. The laws of the byte spaces: read after write, and every write keeps the canonical form. -/

namespace Sys2Proof.Machine

/-- The written address reads as the written byte. -/
theorem memRead_memWrite_same (m : Mem) (a : Nat) (b : Byte) :
    memRead (memWrite m a b) a = some b := by
  induction m with
  | nil => simp [memWrite, memRead]
  | cons c m ih =>
    rw [memWrite]
    split
    · simp [memRead]
    · split
      · simp [memRead]
      · rename_i h1 h2
        simp only [memRead, ih]
        rw [if_neg (fun h => h2 h.symm)]

/-- Every other address reads as before. -/
theorem memRead_memWrite_other (m : Mem) (a : Nat) (b : Byte) (k : Nat) (h : k ≠ a) :
    memRead (memWrite m a b) k = memRead m k := by
  induction m with
  | nil => simp [memWrite, memRead, h.symm]
  | cons c m ih =>
    rw [memWrite]
    split
    · simp [memRead, h.symm]
    · split
      · rename_i h1 h2
        simp [memRead, h.symm, ← h2]
      · simp only [memRead, ih]

/-- The canonical form, one entry at a time. -/
theorem memWf_cons (c : Host.Cell) (m : Mem) :
    memWf (c :: m) = true ↔ (∀ d ∈ m.head?, c.1 < d.1) ∧ memWf m = true := by
  cases m with
  | nil => simp [memWf]
  | cons d m => simp [memWf]

/-- A write keeps the canonical form. -/
theorem memWrite_wf (m : Mem) (a : Nat) (b : Byte) (h : memWf m = true) :
    memWf (memWrite m a b) = true := by
  induction m with
  | nil => simp [memWrite, memWf]
  | cons c m ih =>
    obtain ⟨hc, hm⟩ := (memWf_cons c m).1 h
    rw [memWrite]
    split
    · rename_i h1
      exact (memWf_cons _ _).2 ⟨by simpa using h1, h⟩
    · split
      · rename_i h1 h2
        exact (memWf_cons _ _).2 ⟨by simpa [h2] using hc, hm⟩
      · rename_i h1 h2
        refine (memWf_cons _ _).2 ⟨?_, ih hm⟩
        cases m with
        | nil => simpa [memWrite] using by omega
        | cons d m =>
          rw [memWrite]
          have : c.1 < d.1 := hc d (by simp)
          split
          · simpa using by omega
          · split
            · simpa using by omega
            · simpa using this

end Sys2Proof.Machine
end

