-- ==== Sys2Proof/Laws/Ops.lean ====
section
/-! SUPPORT. What each shared operation can do, said once: later proofs cite these and unfold nothing. -/

namespace Sys2Proof.Machine

/-! ### Operations of the units run by themselves -/

theorem returnBits_next {x : BitValue} {s t : State} (h : returnBits x s = .next t) :
    x.w ≤ s.cfg.bvMax ∧ t = setRet (.bits x) s := by
  unfold returnBits at h
  split at h
  · cases h; exact ⟨‹_›, rfl⟩
  · cases h

theorem bvOperand_of_ok {x : BitValue} (h : x.ok) : bvOperand x = x := by
  cases x with
  | mk v w => simp [bvOperand, bvMake, mask, Nat.and_two_pow_sub_one_eq_mod, Nat.mod_eq_of_lt h]

theorem bvOperand_ok (x : BitValue) : (bvOperand x).ok := bvMake_ok _ _

@[simp] theorem bvOperand_w (x : BitValue) : (bvOperand x).w = x.w := rfl

theorem bvWithin_ok (limit : Nat) (x : BitValue) : (bvWithin limit x).ok := bvMake_ok _ _

theorem bvWithin_w_le (limit : Nat) (x : BitValue) : (bvWithin limit x).w ≤ limit :=
  Nat.lt_succ_iff.1 (Nat.mod_lt _ (Nat.succ_pos limit))

theorem returnBuilt_next {r : Built} {s t : State} (h : returnBuilt r s = .next t) :
    ∃ v, t = setRet v s := by
  cases r with
  | trie r => cases h; exact ⟨_, rfl⟩
  | reject => cases h; exact ⟨_, rfl⟩
  | tooWide => cases h

/-- `insertWithin` on a path the extractor can take apart is `insert` (R157). -/
theorem insertWithin_of_le {limit : Nat} {path : BitValue} (h : path.w ≤ limit + 1) (t : Trie) (sym : Byte) :
    insertWithin limit t path sym =
      match trieInsert t path sym with
      | some r => .trie r
      | none => .reject := by
  have hw : insertTooWide limit t path = false := by
    unfold insertTooWide
    split <;> simp
    all_goals omega
  exact (if_neg (by simp [hw])).trans (by cases trieInsert t path sym <;> rfl)

theorem inHeader_next {s t u : State} (h : inHeader s t = .next u) : s.phase = .readHeader ∧ u = t := by
  unfold inHeader at h
  split at h
  · cases h; exact ⟨‹_›, rfl⟩
  · cases h

/-! ### Emission -/

theorem emit4hi_next {sym : Byte} {s t : State} (h : emit4hi sym s = .next t) :
    wideFault sym s = false ∧ t = holdNibble sym s := by
  unfold emit4hi at h
  cases hw : wideFault sym s with
  | true => rw [if_pos hw] at h; cases h
  | false => rw [if_neg (by simp [hw])] at h; cases h; exact ⟨rfl, rfl⟩

theorem emit4lo_next {sym : Byte} {s t : State} (h : emit4lo sym s = .next t) :
    wideFault sym s = false ∧ t = putByte (s.nibHi ||| sym) (releaseNibble s) := by
  unfold emit4lo at h
  cases hw : wideFault sym s with
  | true => rw [if_pos hw] at h; cases h
  | false => rw [if_neg (by simp [hw])] at h; cases h; exact ⟨rfl, rfl⟩

/-- The three ways a symbol is emitted, with the mode and the flag that select each (R201 to R203). -/
theorem emit_next {sym : Byte} {s t : State} (h : emit sym s = .next t) :
    (s.mode = .byte8 ∧ t = putByte sym s) ∨
    (s.mode = .nibble4 ∧ s.nibFull = false ∧ t = holdNibble sym s) ∨
    (s.mode = .nibble4 ∧ s.nibFull = true ∧ t = putByte (s.nibHi ||| sym) (releaseNibble s)) := by
  unfold emit at h
  split at h
  · cases h; exact .inl ⟨‹_›, rfl⟩
  · obtain ⟨-, h2⟩ := emit4hi_next h
    exact .inr (.inl ⟨‹_›, ‹_›, h2⟩)
  · obtain ⟨-, h2⟩ := emit4lo_next h
    exact .inr (.inr ⟨‹_›, ‹_›, h2⟩)

/-! ### The descent engine -/

theorem atInternal_iff (s : State) :
    atInternal s = true ↔ s.phase = .bodyDescend ∧ ∃ c0 c1, s.node = .internal c0 c1 := by
  unfold atInternal
  split <;> simp_all

theorem refillDue_iff (s : State) :
    refillDue s = true ↔
      s.phase = .bodyDescend ∧ (∃ c0 c1, s.node = .internal c0 c1) ∧ s.pend.w = 0 := by
  simp [refillDue, atInternal_iff, and_assoc]

theorem bitDue_iff (s : State) :
    bitDue s = true ↔
      s.phase = .bodyDescend ∧ (∃ c0 c1, s.node = .internal c0 c1) ∧ 1 ≤ s.pend.w := by
  simp [bitDue, atInternal_iff, and_assoc]

/-- A refill raises TruncatedInput or loads the window (R199). -/
theorem refill_cases (use : BitValue → State → State) (s : State) :
    (s.inLen < s.bodyCur + 4 ∧ refill use s = raise .truncatedInput (.body s.bodyCur) s) ∨
    (s.bodyCur + 4 ≤ s.inLen ∧ refill use s = noteRead (use (refillBits s) (advanceBody s))) := by
  unfold refill bodyExhausted
  by_cases h : s.inLen < s.bodyCur + 4
  · exact .inl ⟨h, if_pos (by simpa using h)⟩
  · exact .inr ⟨by omega, if_neg (by simpa using h)⟩

/-- A branch consumes the bit, then moves to a present child or raises CorruptStream (R173). -/
theorem branch_cases (b : Bool) (s : State) :
    (childOf s.node b = .absent ∧
      branch b s =
        raise .corruptStream (.absentChild s.node b (bvDropMsb s.pend)) (setPend (bvDropMsb s.pend) s)) ∨
    (childOf s.node b ≠ .absent ∧
      branch b s = setNode (childOf s.node b) (setPend (bvDropMsb s.pend) s)) := by
  unfold branch
  split <;> simp_all

theorem execDescLeaf_next {s t : State} (h : execDescLeaf s = .next t) :
    ∃ sym u, s.phase = .bodyDescend ∧ s.node = .leaf sym ∧ emit sym s = .next u ∧
      t = toPhase .bodyCheck u := by
  unfold execDescLeaf at h
  split at h
  · cases h
  · cases h
  · rename_i sym hn
    split at h
    · rename_i hl
      split at h
      · rename_i u hu
        cases h
        exact ⟨sym, u, by simpa [leafStep, hn] using hl, hn, hu, rfl⟩
      · cases h
      · cases h
    · cases h

/-! ### The stream decoder -/

/-- The end of the tree region as a number: it fits its 10 bits (R84). -/
@[simp] theorem setSelector_treeEnd_toNat (b : Byte) (s : State) :
    (setSelector b s).treeEnd.toNat = 6 + 2 * b.toNat := by
  have := b.isLt
  simp only [setSelector_treeEnd, BitVec.toNat_add, BitVec.toNat_mul, BitVec.toNat_setWidth, BitVec.toNat_ofNat]
  omega

/-- A draw or a node of a trie is a node. -/
theorem nodeOf_ne_absent (t : Trie) : nodeOf t ≠ .absent := by cases t <;> simp [nodeOf]

/-- The four ends of the header step, in the order of its checks (R192). -/
theorem readHeader_cases (s : State) :
    (s.inLen < 1 ∧ readHeader s = raise .truncatedInput .header s) ∨
    (1 ≤ s.inLen ∧ magicMode s.cfg (readIn s [] 0) = none ∧
      readHeader s = noteRead (raise .unrecognizedFormat (.magic (readIn s [] 0)) s)) ∨
    (∃ m, 1 ≤ s.inLen ∧ s.inLen < 5 ∧ magicMode s.cfg (readIn s [] 0) = some m ∧
      readHeader s = noteRead (raise .truncatedInput .header (setMode m s))) ∨
    (∃ m, 5 ≤ s.inLen ∧ magicMode s.cfg (readIn s [] 0) = some m ∧
      readHeader s =
        noteRead (toPhase .readTree (setSelector (readIn s [] 4) (setLength (headerLength s) (setMode m s))))) := by
  unfold readHeader
  by_cases h1 : s.inLen < 1
  · exact .inl ⟨h1, if_pos h1⟩
  · rw [if_neg h1]
    cases hm : magicMode s.cfg (readIn s [] 0) with
    | none => exact .inr (.inl ⟨by omega, rfl, rfl⟩)
    | some m =>
      by_cases h5 : s.inLen < 5
      · refine .inr (.inr (.inl ⟨m, by omega, h5, rfl, ?_⟩))
        exact congrArg noteRead (if_pos h5)
      · refine .inr (.inr (.inr ⟨m, by omega, rfl, ?_⟩))
        exact congrArg noteRead (if_neg h5)

/-- The two ends of the tree step (R195). -/
theorem readTree_cases (s : State) :
    (decodeRoot s = .absent ∧ readTree s = noteRead (raise .corruptTree .noRoot s)) ∨
    (decodeRoot s ≠ .absent ∧
      readTree s = noteRead (toPhase .bodyCheck (bodyInit (decodeRoot s) s))) := by
  unfold readTree
  split <;> simp_all

/-- The two ends of the check (R197). -/
theorem checkDone_cases (s : State) :
    (s.emitted = s.declLen ∧ checkDone s = toPhase .done s) ∨
    (s.emitted ≠ s.declLen ∧ checkDone s = toPhase .bodyDescend (setNode s.root s)) := by
  unfold checkDone
  by_cases h : s.emitted = s.declLen
  · exact .inl ⟨h, if_pos h⟩
  · exact .inr ⟨h, if_neg h⟩

end Sys2Proof.Machine
end

