-- ==== Sys2Proof/Laws/Exec.lean ====
section
/-! SUPPORT. Everything an instruction can do when it gives a next state, said once: a frame or an invariant over all
instructions is a case analysis on `exec_next_elim` and unfolds no meaning. -/

namespace Sys2Proof.Machine

/-- What an instruction that gives a next state has done, by the families of rows that share a shape. -/
theorem exec_next {i : Instr} {s t : State} (h : exec i s = .next t) :
  (∃ r, t = setRet r s ∨ t = takeDraw (setRet r s)) ∨
  (s.phase = .readHeader ∧ ((∃ m, (i = .hdrMagic4 ∨ i = .hdrMagic8 ∨ ∃ b, i = .hdrBadmagic b) ∧ t = setMode m s) ∨ (∃ m, i = .hdrBadmagic m ∧ t = raise .unrecognizedFormat (.magic m) s) ∨
    (∃ n, i = .hdrLen n ∧ t = setLength n s) ∨ (∃ b, i = .treeSel b ∧ t = setSelector b s) ∨ (i = .sdReadheader ∧ t = readHeader s))) ∨
  (∃ a e l, i = .tdDecodenode a e l ∧ ∃ r, t = noteRead (setRet r s)) ∨
  (s.phase = .bodyDescend ∧ ((∃ b, (i = .bodyBit0 ∨ i = .bodyBit1 ∨ i = .descBranch) ∧ 1 ≤ s.pend.w ∧ (∃ c0 c1, s.node = .internal c0 c1) ∧ t = branch b s)
     ∨ (∃ use, refillDue s = true ∧ ((i = .descRefill ∧ use = fun win t => setPend (bvConcat t.pend win) t) ∨ (i = .sdRefill ∧ use = fun win t => setRet (.bits win) t)) ∧ t = refill use s)
     ∨ (∃ sym u, i = .descLeaf ∧ emit sym s = .next u ∧ t = toPhase .bodyCheck u)
     ∨ (∃ sym, i = .sdEmit8 sym ∧ s.mode = .byte8 ∧ t = putByte sym s)
     ∨ (∃ sym, i = .sdEmit4hi sym ∧ t = holdNibble sym s)
     ∨ (∃ sym, i = .sdEmit4lo sym ∧ t = putByte (s.nibHi ||| sym) (releaseNibble s)))) ∨
  (∃ len, i = .sdStart len ∧ (busy s.phase = true ∧ t = s ∨ busy s.phase = false ∧ len ≤ 2 ^ s.cfg.inAddrW ∧ t = beginCall len s)) ∨
  (s.phase = .readTree ∧ i = .sdReadtree ∧ t = readTree s) ∨
  (s.phase = .bodyCheck ∧ i = .sdCheck ∧ t = checkDone s) ∨
  (i = .sdReset ∧ t = resetBlock s) := by
  cases i
  case hdrMagic4 => obtain ⟨hp, rfl⟩ := inHeader_next h; exact .inr (.inl ⟨hp, .inl ⟨_, .inl rfl, rfl⟩⟩)
  case hdrMagic8 => obtain ⟨hp, rfl⟩ := inHeader_next h; exact .inr (.inl ⟨hp, .inl ⟨_, .inr (.inl rfl), rfl⟩⟩)
  case hdrBadmagic m =>
    simp only [exec, execHdrBadmagic] at h
    split at h
    · obtain ⟨hp, rfl⟩ := inHeader_next h; exact .inr (.inl ⟨hp, .inr (.inl ⟨_, rfl, rfl⟩)⟩)
    · obtain ⟨hp, rfl⟩ := inHeader_next h; exact .inr (.inl ⟨hp, .inl ⟨_, .inr (.inr ⟨_, rfl⟩), rfl⟩⟩)
  case hdrLen n => obtain ⟨hp, rfl⟩ := inHeader_next h; exact .inr (.inl ⟨hp, .inr (.inr (.inl ⟨_, rfl, rfl⟩))⟩)
  case treeSel n => obtain ⟨hp, rfl⟩ := inHeader_next h; exact .inr (.inl ⟨hp, .inr (.inr (.inr (.inl ⟨_, rfl, rfl⟩)))⟩)
  case treeNode => cases h; exact .inl ⟨_, .inl rfl⟩
  case treeLeaf => cases h; exact .inl ⟨_, .inl rfl⟩
  case bodyWindow => cases h; exact .inl ⟨_, .inl rfl⟩
  case bodyBit0 =>
    simp only [exec, execBodyBit0] at h
    split at h
    · rename_i hc; cases h
      obtain ⟨a, b, c⟩ := (bitDue_iff s).1 hc.1
      exact .inr (.inr (.inr (.inl ⟨a, .inl ⟨_, .inl rfl, c, b, rfl⟩⟩)))
    · cases h
  case bodyBit1 =>
    simp only [exec, execBodyBit1] at h
    split at h
    · rename_i hc; cases h
      obtain ⟨a, b, c⟩ := (bitDue_iff s).1 hc.1
      exact .inr (.inr (.inr (.inl ⟨a, .inl ⟨_, .inr (.inl rfl), c, b, rfl⟩⟩)))
    · cases h
  case descBranch =>
    simp only [exec, execDescBranch] at h
    split at h
    · rename_i hc; cases h
      obtain ⟨a, b, c⟩ := (bitDue_iff s).1 hc
      exact .inr (.inr (.inr (.inl ⟨a, .inl ⟨_, .inr (.inr rfl), c, b, rfl⟩⟩)))
    · cases h
  case bvMake => obtain ⟨-, rfl⟩ := returnBits_next h; exact .inl ⟨_, .inl rfl⟩
  case bvMatches => cases h; exact .inl ⟨_, .inl rfl⟩
  case bvMsb => cases h; exact .inl ⟨_, .inl rfl⟩
  case bvConcat => obtain ⟨-, rfl⟩ := returnBits_next h; exact .inl ⟨_, .inl rfl⟩
  case bvShr => obtain ⟨-, rfl⟩ := returnBits_next h; exact .inl ⟨_, .inl rfl⟩
  case bvShl => obtain ⟨-, rfl⟩ := returnBits_next h; exact .inl ⟨_, .inl rfl⟩
  case bvDropmsb =>
    simp only [exec, execBvDropmsb] at h
    split at h
    · obtain ⟨-, rfl⟩ := returnBits_next h; exact .inl ⟨_, .inl rfl⟩
    · cases h; exact .inl ⟨_, .inr rfl⟩
  case tdDecodenode => cases h; exact .inr (.inr (.inl ⟨_, _, _, rfl, _, rfl⟩))
  case trieInsert => obtain ⟨v, e⟩ := returnBuilt_next h; exact .inl ⟨v, .inl e⟩
  case trieFrommap => obtain ⟨v, e⟩ := returnBuilt_next h; exact .inl ⟨v, .inl e⟩
  case descLeaf =>
    obtain ⟨sym, u, hp, hn, he, rfl⟩ := execDescLeaf_next h
    exact .inr (.inr (.inr (.inl ⟨hp, .inr (.inr (.inl ⟨sym, u, rfl, he, rfl⟩))⟩)))
  case descRefill =>
    simp only [exec, execDescRefill] at h
    split at h
    · rename_i hc; cases h
      exact .inr (.inr (.inr (.inl ⟨((refillDue_iff s).1 hc).1, .inr (.inl ⟨_, hc, .inl ⟨rfl, rfl⟩, rfl⟩)⟩)))
    · cases h
  case sdRefill =>
    simp only [exec, execSdRefill] at h
    split at h
    · rename_i hc; cases h
      exact .inr (.inr (.inr (.inl ⟨((refillDue_iff s).1 hc).1, .inr (.inl ⟨_, hc, .inr ⟨rfl, rfl⟩, rfl⟩)⟩)))
    · cases h
  case sdStart len =>
    simp only [exec, execSdStart] at h
    split at h
    · cases h; exact .inr (.inr (.inr (.inr (.inl ⟨_, rfl, .inl ⟨‹_›, rfl⟩⟩))))
    · split at h
      · cases h; exact .inr (.inr (.inr (.inr (.inl ⟨_, rfl, .inr ⟨Bool.eq_false_iff.2 ‹_›, ‹_›, rfl⟩⟩))))
      · cases h
  case sdReadheader =>
    simp only [exec, execSdReadheader] at h
    split at h
    · cases h; exact .inr (.inl ⟨by assumption, .inr (.inr (.inr (.inr ⟨rfl, rfl⟩)))⟩)
    · cases h
  case sdReadtree =>
    simp only [exec, execSdReadtree] at h
    split at h
    · cases h; exact .inr (.inr (.inr (.inr (.inr (.inl ⟨by assumption, rfl, rfl⟩)))))
    · cases h
  case sdCheck =>
    simp only [exec, execSdCheck] at h
    split at h
    · cases h; exact .inr (.inr (.inr (.inr (.inr (.inr (.inl ⟨by assumption, rfl, rfl⟩))))))
    · cases h
  case sdEmit8 sym =>
    simp only [exec, execSdEmit8] at h
    split at h
    · rename_i hc
      cases h
      have hl : leafStep sym s = true := hc.1
      exact .inr (.inr (.inr (.inl ⟨by simp [leafStep] at hl; exact hl.1, .inr (.inr (.inr (.inl ⟨_, rfl, hc.2, rfl⟩)))⟩)))
    · cases h
  case sdEmit4hi sym =>
    simp only [exec, execSdEmit4hi] at h
    split at h
    · rename_i hc
      obtain ⟨-, rfl⟩ := emit4hi_next h
      have hl : leafStep sym s = true := hc.1
      exact .inr (.inr (.inr (.inl ⟨by simp [leafStep] at hl; exact hl.1, .inr (.inr (.inr (.inr (.inl ⟨_, rfl, rfl⟩))))⟩)))
    · cases h
  case sdEmit4lo sym =>
    simp only [exec, execSdEmit4lo] at h
    split at h
    · rename_i hc
      obtain ⟨-, rfl⟩ := emit4lo_next h
      have hl : leafStep sym s = true := hc.1
      exact .inr (.inr (.inr (.inl ⟨by simp [leafStep] at hl; exact hl.1, .inr (.inr (.inr (.inr (.inr ⟨_, rfl, rfl⟩))))⟩)))
    · cases h
  case sdReset => cases h; exact .inr (.inr (.inr (.inr (.inr (.inr (.inr ⟨rfl, rfl⟩))))))

/-- The same down to the register updates: to show `P` of a next state, show it for each way a row can end. -/
theorem exec_next_elim {i : Instr} {s t : State} (h : exec i s = .next t) (P : Prop)
  (hret : ∀ r, t = setRet r s → P)
  (hfree : ∀ r, t = takeDraw (setRet r s) → P)
  (hmode : ∀ m, (i = .hdrMagic4 ∨ i = .hdrMagic8 ∨ ∃ b, i = .hdrBadmagic b) → t = setMode m s → s.phase = .readHeader → P)
  (hbad : ∀ m, i = .hdrBadmagic m → t = raise .unrecognizedFormat (.magic m) s → P)
  (hlen : ∀ n, i = .hdrLen n → t = setLength n s → s.phase = .readHeader → P)
  (hsel : ∀ n, i = .treeSel n → t = setSelector n s → s.phase = .readHeader → P)
  (hrh1 : i = .sdReadheader → t = raise .truncatedInput .header s → P)
  (hrh2 : i = .sdReadheader → t = noteRead (raise .unrecognizedFormat (.magic (readIn s [] 0)) s) → P)
  (hrh3 : ∀ m, i = .sdReadheader → t = noteRead (raise .truncatedInput .header (setMode m s)) → P)
  (hrh4 : ∀ m, i = .sdReadheader → t = noteRead (toPhase .readTree (setSelector (readIn s [] 4) (setLength (headerLength s) (setMode m s)))) → P)
  (htd : ∀ r, t = noteRead (setRet r s) → P)
  (hb1 : ∀ inf, (i = .bodyBit0 ∨ i = .bodyBit1 ∨ i = .descBranch) → t = raise .corruptStream inf (setPend (bvDropMsb s.pend) s) → P)
  (hb2 : ∀ n, (i = .bodyBit0 ∨ i = .bodyBit1 ∨ i = .descBranch) → s.phase = .bodyDescend → n ≠ .absent → t = setNode n (setPend (bvDropMsb s.pend) s) → P)
  (hr1 : (i = .descRefill ∨ i = .sdRefill) → t = raise .truncatedInput (.body s.bodyCur) s → P)
  (hr2 : i = .descRefill → s.phase = .bodyDescend → refillDue s = true → s.bodyCur + 4 ≤ s.inLen → t = noteRead (setPend (bvConcat s.pend (refillBits s)) (advanceBody s)) → P)
  (hr3 : i = .sdRefill → s.phase = .bodyDescend → refillDue s = true → s.bodyCur + 4 ≤ s.inLen → t = noteRead (setRet (.bits (refillBits s)) (advanceBody s)) → P)
  (hl1 : ∀ b, i = .descLeaf → s.mode = .byte8 → t = toPhase .bodyCheck (putByte b s) → P)
  (hl2 : ∀ b, i = .descLeaf → s.mode = .nibble4 → t = toPhase .bodyCheck (holdNibble b s) → P)
  (hl3 : ∀ b, i = .descLeaf → s.mode = .nibble4 → t = toPhase .bodyCheck (putByte b (releaseNibble s)) → P)
  (he1 : ∀ b, i = .sdEmit8 b → s.phase = .bodyDescend → t = putByte b s → P)
  (he2 : ∀ b, i = .sdEmit4hi b → s.phase = .bodyDescend → t = holdNibble b s → P)
  (he3 : ∀ b c, i = .sdEmit4lo b → s.phase = .bodyDescend → t = putByte c (releaseNibble s) → P)
  (hs1 : ∀ len, i = .sdStart len → busy s.phase = true → t = s → P)
  (hs2 : ∀ len, i = .sdStart len → busy s.phase = false → len ≤ 2 ^ s.cfg.inAddrW → t = beginCall len s → P)
  (ht1 : i = .sdReadtree → t = noteRead (raise .corruptTree .noRoot s) → P)
  (ht2 : i = .sdReadtree → decodeRoot s ≠ .absent → t = noteRead (toPhase .bodyCheck (bodyInit (decodeRoot s) s)) → P)
  (hc1 : i = .sdCheck → s.emitted = s.declLen → t = toPhase .done s → P)
  (hc2 : i = .sdCheck → s.emitted ≠ s.declLen → t = toPhase .bodyDescend (setNode s.root s) → P)
  (hz : i = .sdReset → t = resetBlock s → P) : P := by
  rcases exec_next h with ⟨r, e | e⟩ | ⟨hp, h⟩ | ⟨a, e, l, -, r, e'⟩ | ⟨hp, h⟩ | ⟨len, hi, ⟨hb, e⟩ | ⟨hb, hl, e⟩⟩ | ⟨hp, hi, e⟩ | ⟨hp, hi, e⟩ | ⟨hi, e⟩
  · exact hret r e
  · exact hfree r e
  · rcases h with ⟨m, hi, e⟩ | ⟨m, hi, e⟩ | ⟨n, hi, e⟩ | ⟨b, hi, e⟩ | ⟨hi, e⟩
    · exact hmode m hi e hp
    · exact hbad m hi e
    · exact hlen n hi e hp
    · exact hsel b hi e hp
    · rcases readHeader_cases s with ⟨-, e'⟩ | ⟨-, -, e'⟩ | ⟨m, -, -, -, e'⟩ | ⟨m, -, -, e'⟩ <;> rw [e'] at e
      · exact hrh1 hi e
      · exact hrh2 hi e
      · exact hrh3 m hi e
      · exact hrh4 m hi e
  · exact htd r e'
  · rcases h with ⟨b, hi, -, -, e⟩ | ⟨use, hd, hi, e⟩ | ⟨sym, u, hi, hu, e⟩ | ⟨sym, hi, -, e⟩ | ⟨sym, hi, e⟩ | ⟨sym, hi, e⟩
    · rcases branch_cases b s with ⟨h1, e'⟩ | ⟨h1, e'⟩ <;> rw [e'] at e
      · exact hb1 _ hi e
      · exact hb2 _ hi hp h1 e
    · rcases refill_cases use s with ⟨h1, e'⟩ | ⟨h1, e'⟩ <;> rw [e'] at e
      · exact hr1 (hi.imp And.left And.left) e
      · rcases hi with ⟨hi, rfl⟩ | ⟨hi, rfl⟩
        · exact hr2 hi hp hd h1 e
        · exact hr3 hi hp hd h1 e
    · rcases emit_next hu with ⟨a, rfl⟩ | ⟨a, b, rfl⟩ | ⟨a, b, rfl⟩
      · exact hl1 _ hi a e
      · exact hl2 _ hi a e
      · exact hl3 _ hi a e
    · exact he1 _ hi hp e
    · exact he2 _ hi hp e
    · exact he3 _ _ hi hp e
  · exact hs1 _ hi hb e
  · exact hs2 _ hi hb hl e
  · rcases readTree_cases s with ⟨-, e'⟩ | ⟨hr, e'⟩ <;> rw [e'] at e
    · exact ht1 hi e
    · exact ht2 hi hr e
  · rcases checkDone_cases s with ⟨hd, e'⟩ | ⟨hd, e'⟩ <;> rw [e'] at e
    · exact hc1 hi hd e
    · exact hc2 hi hd e
  · exact hz hi e

end Sys2Proof.Machine
end

