-- ==== Sys2Proof/Laws/PerInstr.lean ====
section
/-! SUPPORT. Per-instruction laws about the instructions as syntax: the encoding of an instruction has as many
bytes as its place in the input (R80). -/

namespace Sys2Proof.Laws.EncodingShape

/-- What `encode` gives an instruction has the length of the format at its place (R80). -/
def Statement (i : Instr) : Prop :=
  ∀ (c : Config) (slot : Slot) (bytes : List Byte),
    encode c i = some (slot, bytes) → bytes.length = slotLength slot

theorem hdrMagic4 : Statement .hdrMagic4 := by
  intro _ _ _ h
  cases h; rfl

theorem hdrMagic8 : Statement .hdrMagic8 := by
  intro _ _ _ h
  cases h; rfl

theorem hdrBadmagic (m : Byte) : Statement (.hdrBadmagic m) := by
  intro _ _ _ h
  cases h; rfl

theorem hdrLen (len : BitVec 24) : Statement (.hdrLen len) := by
  intro _ _ _ h
  cases h; rfl

theorem treeSel (sel : Byte) : Statement (.treeSel sel) := by
  intro _ _ _ h
  cases h; rfl

theorem treeNode (a : Nat) (l0 l1 : Bool) (off : BitVec 6) : Statement (.treeNode a l0 l1 off) := by
  intro _ _ _ h
  cases h; rfl

theorem treeLeaf (sym : Byte) : Statement (.treeLeaf sym) := by
  intro _ _ _ h
  cases h; rfl

theorem bodyWindow (b0 b1 b2 b3 : Byte) : Statement (.bodyWindow b0 b1 b2 b3) := by
  intro _ _ _ h
  cases h; rfl

theorem bodyBit0 : Statement .bodyBit0 := by
  intro _ _ _ h
  cases h; rfl

theorem bodyBit1 : Statement .bodyBit1 := by
  intro _ _ _ h
  cases h; rfl

theorem bvMake (value width : Nat) : Statement (.bvMake value width) := by
  intro _ _ _ h
  cases h

theorem bvMatches (pat cand : BitValue) : Statement (.bvMatches pat cand) := by
  intro _ _ _ h
  cases h

theorem bvConcat (high low : BitValue) : Statement (.bvConcat high low) := by
  intro _ _ _ h
  cases h

theorem bvMsb (x : BitValue) : Statement (.bvMsb x) := by
  intro _ _ _ h
  cases h

theorem bvShr (x : BitValue) (n : Nat) : Statement (.bvShr x n) := by
  intro _ _ _ h
  cases h

theorem bvShl (x : BitValue) (n : Nat) : Statement (.bvShl x n) := by
  intro _ _ _ h
  cases h

theorem bvDropmsb (x : BitValue) : Statement (.bvDropmsb x) := by
  intro _ _ _ h
  cases h

theorem tdDecodenode (a regionEnd : Nat) (isLeaf : Bool) : Statement (.tdDecodenode a regionEnd isLeaf) := by
  intro _ _ _ h
  cases h

theorem trieInsert (t : Trie) (path : BitValue) (sym : Byte) : Statement (.trieInsert t path sym) := by
  intro _ _ _ h
  cases h

theorem trieFrommap (m : List (BitValue × Byte)) : Statement (.trieFrommap m) := by
  intro _ _ _ h
  cases h

theorem descLeaf : Statement .descLeaf := by
  intro _ _ _ h
  cases h

theorem descRefill : Statement .descRefill := by
  intro _ _ _ h
  cases h

theorem descBranch : Statement .descBranch := by
  intro _ _ _ h
  cases h

theorem sdStart (len : Nat) : Statement (.sdStart len) := by
  intro _ _ _ h
  cases h

theorem sdReadheader : Statement .sdReadheader := by
  intro _ _ _ h
  cases h

theorem sdReadtree : Statement .sdReadtree := by
  intro _ _ _ h
  cases h

theorem sdCheck : Statement .sdCheck := by
  intro _ _ _ h
  cases h

theorem sdRefill : Statement .sdRefill := by
  intro _ _ _ h
  cases h

theorem sdEmit8 (sym : Byte) : Statement (.sdEmit8 sym) := by
  intro _ _ _ h
  cases h

theorem sdEmit4hi (sym : Byte) : Statement (.sdEmit4hi sym) := by
  intro _ _ _ h
  cases h

theorem sdEmit4lo (sym : Byte) : Statement (.sdEmit4lo sym) := by
  intro _ _ _ h
  cases h

theorem sdReset : Statement .sdReset := by
  intro _ _ _ h
  cases h

end Sys2Proof.Laws.EncodingShape
end

