-- ==== Sys2Proof/Laws/Step.lean ====
section
/-! SUPPORT. What a step can do, by what drives it. -/

namespace Sys2Proof.Machine

/-! ### What a step runs -/

/-- Something put straight to a unit comes first. -/
theorem step_of_issue {s : State} {q : Issue} (h : s.issue = some q) :
    step s = perform (fetchIssue q (takeIssue s)) := by
  simp only [step, fetch, h]

/-- Then the next input of the host. -/
theorem step_of_input {s : State} {e : HostInput} {rest : List HostInput} (hi : s.issue = none)
    (h : s.inputs = e :: rest) :
    step s = perform (fetchInput e (keepInputs rest s)) := by
  simp only [step, fetch, hi, h]

/-- Then the block's own step. -/
theorem step_of_own {s : State} (hi : s.issue = none) (h : s.inputs = []) :
    step s = perform (fetchOwn s) := by
  simp only [step, fetch, hi, h]

/-- What the block's own step can do: run its enabled step, or nothing in a quiet phase. -/
theorem fetchOwn_next {s t : State}
    (h : perform (fetchOwn s) = .next t) :
    (∃ i, ownStep s = some i ∧ exec i s = .next t) ∨
    (ownStep s = none ∧ busy s.phase = false ∧ t = s) := by
  unfold fetchOwn at h
  cases ho : ownStep s with
  | some i => rw [ho] at h; exact .inl ⟨i, rfl, h⟩
  | none =>
    rw [ho] at h
    dsimp only at h
    cases hb : busy s.phase with
    | true => simp [hb, perform] at h
    | false => simp [hb, perform] at h; exact .inr ⟨rfl, rfl, h.symm⟩

/-- What an input of the host can do. -/
theorem fetchInput_next {e : HostInput} {s t : State}
    (h : perform (fetchInput e s) = .next t) :
    t = resetBlock s ∨
    (∃ len, exec (.sdStart len) s = .next t) ∨
    (∃ a b, a < 2 ^ s.cfg.inAddrW ∧ t = hostPutIn a b s) ∨
    (∃ i, ownStep s = some i ∧ exec i s = .next t) ∨
    (ownStep s = none ∧ busy s.phase = false ∧ t = s) := by
  cases e with
  | quiet => exact .inr (.inr (.inr (fetchOwn_next h)))
  | rst =>
    refine .inl ?_
    have : exec .sdReset s = .next t := h
    cases this; rfl
  | start len =>
    exact .inr (.inl ⟨len, h⟩)
  | putIn a b =>
    refine .inr (.inr (.inl ⟨a, b, ?_⟩))
    by_cases ha : a < 2 ^ s.cfg.inAddrW
    · simp only [fetchInput, ha, if_true, perform] at h
      cases h; exact ⟨ha, rfl⟩
    · simp [fetchInput, ha, perform] at h

/-- A step of a machine with nothing put straight to a unit, after the input it takes (`rest` is what stays), is
one of five things: SD.RESET, SD.START, a write of IN by the host, the block's own step, or nothing in a
quiet phase. -/
theorem step_cases {s t : State} (hi : s.issue = none) (h : step s = .next t) :
    ∃ rest,
      t = resetBlock (keepInputs rest s) ∨
      (∃ len, exec (.sdStart len) (keepInputs rest s) = .next t) ∨
      (∃ a b, a < 2 ^ s.cfg.inAddrW ∧ t = hostPutIn a b (keepInputs rest s)) ∨
      (∃ i, ownStep s = some i ∧ exec i (keepInputs rest s) = .next t) ∨
      (ownStep s = none ∧ busy s.phase = false ∧ t = keepInputs rest s) := by
  cases hin : s.inputs with
  | nil =>
    have hs : keepInputs [] s = s := by rw [keepInputs, ← hin]
    rw [step_of_own hi hin] at h
    refine ⟨[], .inr (.inr (.inr ?_))⟩
    rw [hs]
    exact fetchOwn_next h
  | cons e rest =>
    rw [step_of_input hi hin] at h
    exact ⟨rest, fetchInput_next h⟩

/-- Left to itself, the block runs its enabled step. -/
theorem step_own {s : State} {i : Instr} (hu : Undisturbed s) (h : ownStep s = some i) :
    step s = exec i s := by
  simp only [step, fetch, hu.1, hu.2, fetchOwn, h, perform]

/-- Left to itself in IDLE, DONE or FAILED, the block is quiet. -/
theorem step_quiet {s : State} (hu : Undisturbed s) (h : ownStep s = none)
    (hb : busy s.phase = false) : step s = .next s := by
  simp only [step, fetch, hu.1, hu.2, fetchOwn, h, hb, Bool.false_eq_true, if_false, perform]

theorem run_zero (s : State) : run 0 s = .next s := rfl

theorem run_succ {s t : State} (h : step s = .next t) (k : Nat) : run (k + 1) s = run k t := by
  simp only [run, h]

/-- Runs compose. -/
theorem run_add {s t : State} {j : Nat} (h : run j s = .next t) (k : Nat) :
    run (j + k) s = run k t := by
  induction j generalizing s with
  | zero => cases h; simp
  | succ j ih =>
    rw [Nat.succ_add]
    simp only [run] at h ⊢
    cases hs : step s with
    | next u => rw [hs] at h; exact ih h
    | fault f => rw [hs] at h; cases h
    | refused r => rw [hs] at h; cases h

end Sys2Proof.Machine
end

