-- ==== Sys2Proof/Laws/Tree.lean ====
section
/-! SUPPORT. Small lemmas about the tree decoder's addresses and about paths in a trie. -/

namespace Sys2Proof.Machine

/-- Child addresses strictly increase (R151). -/
theorem lt_child0Addr (a : Nat) (off : BitVec 6) : a < child0Addr a off := by
  unfold child0Addr evenBase; omega

/-- A child's pair lies at least one pair above its parent's (R153). -/
theorem evenBase_child0Addr (a : Nat) (off : BitVec 6) :
    evenBase a + 2 ≤ evenBase (child0Addr a off) := by
  unfold child0Addr evenBase; omega

/-- Both children stand in one pair (R146, R152). -/
theorem evenBase_child1Addr (a : Nat) (off : BitVec 6) :
    evenBase (child1Addr a off) = evenBase (child0Addr a off) := by
  unfold child1Addr child0Addr evenBase; omega

/-- Child 0 stands at an even address (R152). -/
theorem child0Addr_even (a : Nat) (off : BitVec 6) : child0Addr a off % 2 = 0 := by
  unfold child0Addr evenBase; omega

/-- No child lands on the selector: every child address is at least 6 (R85). -/
theorem six_le_child0Addr (a : Nat) (off : BitVec 6) (h : 5 ≤ a) : 6 ≤ child0Addr a off := by
  unfold child0Addr evenBase; omega

@[simp] theorem follow_nil (t : Trie) : follow t [] = t := by cases t <;> rfl

@[simp] theorem follow_absent (path : List Bool) : follow .absent path = .absent := by
  cases path <;> rfl

@[simp] theorem follow_leaf_cons (sym : Byte) (b : Bool) (path : List Bool) :
    follow (.leaf sym) (b :: path) = .absent := rfl

@[simp] theorem follow_internal_cons (c0 c1 : Trie) (b : Bool) (path : List Bool) :
    follow (.internal c0 c1) (b :: path) = if b then follow c1 path else follow c0 path := rfl

/-- Paths compose. -/
theorem follow_append (t : Trie) (p q : List Bool) : follow t (p ++ q) = follow (follow t p) q := by
  induction p generalizing t with
  | nil => simp
  | cons b p ih =>
    cases t with
    | absent => simp
    | leaf sym => simp
    | internal c0 c1 => cases b <;> simp [ih]

end Sys2Proof.Machine
end

