-- ==== Sys2Proof/Tests/Slice0.lean ====
section
/-! SUPPORT. The model's own tests. The expected results are the vectors of 95_test_vectors.md (named in each
docstring) and words written out from the formats of 30_encoding.md. -/

namespace Sys2Proof.Tests

open Sys2Proof Sys2Proof.Machine

/-- One value of a next state. -/
def look {α : Type} (f : State → α) : Outcome → Option α
  | .next t => some (f t)
  | .fault _ => none
  | .refused _ => none

/-- The fault of an outcome. -/
def faultOf : Outcome → Option Fault
  | .next _ => none
  | .fault f => some f
  | .refused _ => none

/-- The refusal of an outcome. -/
def refusalOf : Outcome → Option Refusal
  | .next _ => none
  | .fault _ => none
  | .refused r => some r

/-- Bytes at the addresses from `a` on. -/
def bytesAt : Nat → List Byte → Mem
  | _, [] => []
  | a, b :: rest => (a, b) :: bytesAt (a + 1) rest

/-- The reset state in a phase, with IN given. -/
def start (p : Phase) (bytes : List Byte) : State :=
  { State.reset with phase := p, inp := bytesAt 0 bytes, inLen := bytes.length }

/-- The trie of program P1. -/
def treeT1 : Trie := .internal (.leaf 0x41#8) (.leaf 0x42#8)

/-- The image of program P1. -/
def imageP1 : List Byte :=
  [0x28#8, 0x04#8, 0x00#8, 0x00#8, 0x01#8, 0xC0#8, 0x41#8, 0x42#8, 0x60#8, 0x00#8, 0x00#8, 0x00#8]

/-- BODY_DESCEND at a node with pending bits, over program P1's input. -/
def descending (n : Trie) (p : BitValue) : State :=
  { start .bodyDescend imageP1 with
    treeSel := 1#8, treeEnd := 8, bodyCur := 8, root := treeT1, node := n, pend := p, mode := .byte8,
    declLen := 4#24 }

/-- The leaf step in 4-bit mode. -/
def nibbleLeaf (full : Bool) (sym : Byte) (policy : WidePolicy) : State :=
  { descending (.leaf sym) BitValue.empty with
    mode := .nibble4, nibFull := full, nibHi := 0xA0#8
    cfg := { Config.expected with widePolicy := policy } }

/-- A body window of 12 34 56 78 at address 8. -/
def windowState (order : WindowOrder) : State :=
  { descending treeT1 BitValue.empty with
    inp := bytesAt 8 [0x12#8, 0x34#8, 0x56#8, 0x78#8]
    cfg := { Config.expected with windowOrder := order } }

/-! ## Well-formedness refuses -/

theorem test_wf_badmagic_is_no_magic4 : WellFormed Config.expected (.hdrBadmagic 0x24#8) = false := by decide
theorem test_wf_badmagic_is_no_magic8 : WellFormed Config.expected (.hdrBadmagic 0x28#8) = false := by decide
theorem test_wf_node_below_root : WellFormed Config.expected (.treeNode 4 true true 0#6) = false := by decide
theorem test_wf_node_past_region : WellFormed Config.expected (.treeNode 516 true true 0#6) = false := by decide
theorem test_wf_matches_operand : WellFormed Config.expected (.bvMatches ⟨0, 0⟩ ⟨2, 1⟩) = false := by decide
theorem test_wf_concat_operand : WellFormed Config.expected (.bvConcat ⟨4, 2⟩ ⟨0, 0⟩) = false := by decide
theorem test_wf_msb_operand : WellFormed Config.expected (.bvMsb ⟨1, 0⟩) = false := by decide
theorem test_wf_shr_operand : WellFormed Config.expected (.bvShr ⟨2, 1⟩ 1) = false := by decide
theorem test_wf_shl_operand : WellFormed Config.expected (.bvShl ⟨2, 1⟩ 1) = false := by decide
theorem test_wf_dropmsb_of_empty : WellFormed Config.expected (.bvDropmsb ⟨0, 0⟩) = false := by decide
theorem test_wf_dropmsb_operand : WellFormed Config.expected (.bvDropmsb ⟨2, 1⟩) = false := by decide
theorem test_wf_insert_path : WellFormed Config.expected (.trieInsert .absent ⟨2, 1⟩ 0#8) = false := by decide
theorem test_wf_frommap_path : WellFormed Config.expected (.trieFrommap [(⟨2, 1⟩, 0#8)]) = false := by decide
theorem test_wf_start_too_long : WellFormed Config.expected (.sdStart (2 ^ 24 + 1)) = false := by decide

/-! ## Decoding: words written out from the formats -/

/-- R82 with the expected MAGIC4. -/
theorem test_decode_magic4 : decode Config.expected .magic [0b00100100#8] = .ok .hdrMagic4 := by decide
/-- R82 with the expected MAGIC8. -/
theorem test_decode_magic8 : decode Config.expected .magic [0b00101000#8] = .ok .hdrMagic8 := by decide
/-- SD1. -/
theorem test_decode_badmagic :
    decode Config.expected .magic [0b00101001#8] = .ok (.hdrBadmagic 0x29#8) := by decide
/-- SD5: little-endian. -/
theorem test_decode_len :
    decode Config.expected .length [0x01#8, 0x02#8, 0x03#8] = .ok (.hdrLen 197121#24) := by decide
/-- R84. -/
theorem test_decode_sel : decode Config.expected .selector [0xFF#8] = .ok (.treeSel 255#8) := by decide
/-- R86: L0 is bit 7, L1 bit 6, OFF bits 5 to 0. -/
theorem test_decode_node :
    decode Config.expected (.node 7) [0b10010011#8] = .ok (.treeNode 7 true false 0b010011#6) := by decide
/-- R87. -/
theorem test_decode_leaf : decode Config.expected .leaf [0b11000001#8] = .ok (.treeLeaf 0xC1#8) := by decide
/-- R90. -/
theorem test_decode_window :
    decode Config.expected .window [0x12#8, 0x34#8, 0x56#8, 0x78#8] =
      .ok (.bodyWindow 0x12#8 0x34#8 0x56#8 0x78#8) := by decide
/-- R92. -/
theorem test_decode_bit0 : decode Config.expected .bit [0b00000000#8] = .ok .bodyBit0 := by decide
/-- R92. -/
theorem test_decode_bit1 : decode Config.expected .bit [0b00000001#8] = .ok .bodyBit1 := by decide
/-- R92: a stream bit is 0 or 1. -/
theorem test_decode_no_bit : decode Config.expected .bit [0b00000010#8] = .error .notABit := by decide
/-- R80: a window has 4 bytes. -/
theorem test_decode_short_window :
    decode Config.expected .window [0x12#8, 0x34#8, 0x56#8] = .error .wrongLength := by decide
/-- Log 13: the first byte of a table word is its low byte. -/
theorem test_table_word_length : decodeTableWord 24 0x030201 = some (.hdrLen 0x030201#24) := by decide
/-- Log 13: the very next step runs the word. -/
theorem test_table_word_runs :
    look (fun t => t.declLen) (step (State.reset.withFetchWord 24 0x030201)) = some 197121#24 := by decide

/-! ## One step of each row -/

/-- R82. -/
theorem test_magic4 : look (fun t => t.mode) (exec .hdrMagic4 { start .readHeader [] with mode := .byte8 }) =
    some .nibble4 := by decide
/-- R82. -/
theorem test_magic8 : look (fun t => t.mode) (exec .hdrMagic8 (start .readHeader [])) = some .byte8 := by decide
/-- SD1, ST2. -/
theorem test_badmagic :
    look statusCode (exec (.hdrBadmagic 0x29#8) (start .readHeader [])) = some 4#3 := by decide
/-- R82: a magic value put to the row selects its mode (log 20). -/
theorem test_badmagic_good :
    look (fun t => (t.mode, t.phase)) (exec (.hdrBadmagic 0x28#8) (start .readHeader [])) =
      some (.byte8, .readHeader) := by decide
/-- SD6. -/
theorem test_len : look (fun t => t.declLen.toNat) (exec (.hdrLen 0xFFFFFF#24) (start .readHeader [])) =
    some 16777215 := by decide
/-- SD7. -/
theorem test_sel_max :
    look (fun t => t.treeEnd) (exec (.treeSel 0xFF#8) (start .readHeader [])) = some 516 := by decide
/-- SD8. -/
theorem test_sel_min :
    look (fun t => t.treeEnd) (exec (.treeSel 0x00#8) (start .readHeader [])) = some 6 := by decide
/-- TD1. -/
theorem test_node_root : look (fun t => t.ret) (exec (.treeNode 5 true true 0#6) State.reset) =
    some (.children 6 true 7 true) := by decide
/-- TD2. -/
theorem test_node_far : look (fun t => t.ret) (exec (.treeNode 6 false false 63#6) State.reset) =
    some (.children 134 false 135 false) := by decide
/-- R87. -/
theorem test_leaf_byte : look (fun t => t.ret) (exec (.treeLeaf 0x41#8) State.reset) =
    some (.trie (.leaf 0x41#8)) := by decide
/-- SD10. -/
theorem test_window_big :
    look (fun t => t.ret) (exec (.bodyWindow 0x12#8 0x34#8 0x56#8 0x78#8) (windowState .big)) =
      some (.window 0x12345678#32) := by decide
/-- SD11. -/
theorem test_window_little :
    look (fun t => t.ret) (exec (.bodyWindow 0x12#8 0x34#8 0x56#8 0x78#8) (windowState .little)) =
      some (.window 0x78563412#32) := by decide
/-- DS1, its branch. -/
theorem test_bit0 : look (fun t => (t.node, t.pend)) (exec .bodyBit0 (descending treeT1 ⟨0x60000000, 32⟩)) =
    some (.leaf 0x41#8, ⟨0x60000000, 31⟩) := by decide
/-- DS2, its branch. -/
theorem test_bit1 : look (fun t => (t.node, t.pend)) (exec .bodyBit1 (descending treeT1 ⟨0x60000000, 31⟩)) =
    some (.leaf 0x42#8, ⟨0x20000000, 30⟩) := by decide
/-- BV1. -/
theorem test_make : look (fun t => t.ret) (exec (.bvMake 0x1FF 8) State.reset) =
    some (.bits ⟨0xFF, 8⟩) := by decide
/-- BV2. -/
theorem test_make_empty : look (fun t => t.ret) (exec (.bvMake 5 0) State.reset) =
    some (.bits ⟨0, 0⟩) := by decide
/-- BV19. -/
theorem test_matches_low_bits : look (fun t => t.ret) (exec (.bvMatches ⟨0b101, 3⟩ ⟨0b1101, 4⟩) State.reset) =
    some (.bool true) := by decide
/-- BV20. -/
theorem test_matches_not : look (fun t => t.ret) (exec (.bvMatches ⟨0b101, 3⟩ ⟨0b1011, 4⟩) State.reset) =
    some (.bool false) := by decide
/-- BV7. -/
theorem test_concat : look (fun t => t.ret) (exec (.bvConcat ⟨0b10, 2⟩ ⟨0b011, 3⟩) State.reset) =
    some (.bits ⟨0b10011, 5⟩) := by decide
/-- BV9. -/
theorem test_concat_empty : look (fun t => t.ret) (exec (.bvConcat ⟨1, 1⟩ ⟨0, 0⟩) State.reset) =
    some (.bits ⟨1, 1⟩) := by decide
/-- BV4. -/
theorem test_msb_empty : look (fun t => t.ret) (exec (.bvMsb ⟨0, 0⟩) State.reset) =
    some (.bool false) := by decide
/-- BV5. -/
theorem test_msb_set : look (fun t => t.ret) (exec (.bvMsb ⟨0b100, 3⟩) State.reset) =
    some (.bool true) := by decide
/-- BV10. -/
theorem test_shr : look (fun t => t.ret) (exec (.bvShr ⟨0b1101, 4⟩ 1) State.reset) =
    some (.bits ⟨0b110, 3⟩) := by decide
/-- BV12. -/
theorem test_shr_past : look (fun t => t.ret) (exec (.bvShr ⟨0b1101, 4⟩ 5) State.reset) =
    some (.bits ⟨0, 0⟩) := by decide
/-- BV13. -/
theorem test_shl : look (fun t => t.ret) (exec (.bvShl ⟨0b11, 2⟩ 3) State.reset) =
    some (.bits ⟨0b11000, 5⟩) := by decide
/-- BV14. -/
theorem test_shl_empty : look (fun t => t.ret) (exec (.bvShl ⟨0, 0⟩ 4) State.reset) =
    some (.bits ⟨0, 4⟩) := by decide
/-- BV15. -/
theorem test_dropmsb : look (fun t => t.ret) (exec (.bvDropmsb ⟨0x80000001, 32⟩) State.reset) =
    some (.bits ⟨1, 31⟩) := by decide
/-- BV16. -/
theorem test_dropmsb_last : look (fun t => t.ret) (exec (.bvDropmsb ⟨1, 1⟩) State.reset) =
    some (.bits ⟨0, 0⟩) := by decide
/-- TD1 with the bytes of P1. -/
theorem test_decodenode : look (fun t => t.ret) (exec (.tdDecodenode 5 8 false) (start .idle imageP1)) =
    some (.trie treeT1) := by decide
/-- TD5: the address test comes before the leaf test. -/
theorem test_decodenode_outside : look (fun t => t.ret) (exec (.tdDecodenode 9 8 true) (start .idle imageP1)) =
    some (.trie .absent) := by decide
/-- TD9's tree with IN one byte short of it: child 1 does not exist (R149). -/
theorem test_decodenode_past_in :
    look (fun t => t.ret) (exec (.tdDecodenode 5 8 false) { start .idle imageP1 with inLen := 7 }) =
      some (.trie (.internal (.leaf 0x41#8) .absent)) := by decide
/-- TD10. -/
theorem test_insert : look (fun t => t.ret) (exec (.trieInsert .absent ⟨0b1, 1⟩ 0x41#8) State.reset) =
    some (.trie (.internal .absent (.leaf 0x41#8))) := by decide
/-- TD11. -/
theorem test_insert_through_leaf :
    look (fun t => t.ret)
      (exec (.trieInsert (.internal .absent (.leaf 0x41#8)) ⟨0b10, 2⟩ 0x42#8) State.reset) =
    some .reject := by decide
/-- TD13. -/
theorem test_frommap :
    look (fun t => t.ret) (exec (.trieFrommap [(⟨1, 1⟩, 0x42#8), (⟨0, 1⟩, 0x41#8)]) State.reset) =
    some (.trie treeT1) := by decide
/-- R120: a path of `BV_MAX + 2` bits. -/
theorem test_frommap_too_wide :
    refusalOf (exec (.trieFrommap [(⟨0, 34⟩, 0x41#8)]) State.reset) = some .widerThanBvMax := by decide
/-- SD13. -/
theorem test_desc_leaf :
    look (fun t => (t.out, t.emitted, t.phase)) (exec .descLeaf (descending (.leaf 0xFF#8) ⟨0, 0⟩)) =
    some ([(0, 0xFF#8)], 1, .bodyCheck) := by decide
/-- SD16, its second symbol. -/
theorem test_desc_leaf_nibble :
    look (fun t => (t.out, t.nibFull)) (exec .descLeaf
      { nibbleLeaf true 0x25#8 .truncate with nibHi := 0xF0#8 }) = some ([(0, 0xF5#8)], false) := by decide
/-- DS1, its refill. -/
theorem test_desc_refill :
    look (fun t => (t.pend, t.bodyCur)) (exec .descRefill (descending treeT1 ⟨0, 0⟩)) =
    some (⟨0x60000000, 32⟩, 12) := by decide
/-- DS6. -/
theorem test_desc_refill_truncated :
    look statusCode (exec .descRefill { descending (.internal .absent .absent) ⟨0, 0⟩ with bodyCur := 12 }) =
    some 7#3 := by decide
/-- DS2, its branch. -/
theorem test_desc_branch :
    look (fun t => (t.node, t.pend)) (exec .descBranch (descending treeT1 ⟨0x60000000, 31⟩)) =
    some (.leaf 0x42#8, ⟨0x20000000, 30⟩) := by decide
/-- DS5, its second branch, and ST4. -/
theorem test_desc_branch_corrupt :
    look (fun t => (statusCode t, t.pend)) (exec .descBranch (descending (.internal .absent .absent) ⟨0, 1⟩)) =
    some (6#3, ⟨0, 0⟩) := by decide
/-- P1, step 0. -/
theorem test_start : look (fun t => (t.phase, t.inLen)) (exec (.sdStart 12) State.reset) =
    some (.readHeader, 12) := by decide
/-- SD20, through a step and with an `IN_LEN` past the address width (D13). -/
theorem test_start_ignored :
    look (fun t => (t.phase, t.inLen))
      (step { descending treeT1 ⟨0, 0⟩ with inputs := [.start (2 ^ 24 + 1)] }) = some (.bodyDescend, 12) := by decide
/-- P1, step 1. -/
theorem test_readheader :
    look (fun t => (t.mode, t.declLen, t.treeSel, t.treeEnd, t.phase))
      (exec .sdReadheader (start .readHeader imageP1)) = some (.byte8, 4#24, 1#8, 8, .readTree) := by decide
/-- SD2: the magic byte is checked before the length. -/
theorem test_readheader_magic_first :
    look statusCode (exec .sdReadheader (start .readHeader [0x00#8])) = some 4#3 := by decide
/-- P1, step 2. -/
theorem test_readtree :
    look (fun t => (t.root, t.bodyCur, t.phase))
      (exec .sdReadtree { start .readTree imageP1 with treeSel := 1#8, treeEnd := 8 }) =
    some (treeT1, 8, .bodyCheck) := by decide
/-- TD8, SD19 and ST3. -/
theorem test_readtree_no_root :
    look statusCode (exec .sdReadtree
      { start .readTree [0x28#8, 0x00#8, 0x00#8, 0x00#8, 0x01#8] with treeEnd := 8 }) = some 5#3 := by decide
/-- SD18 and ST1. -/
theorem test_check_done : look statusCode (exec .sdCheck (start .bodyCheck imageP1)) = some 2#3 := by decide
/-- P1, step 3. -/
theorem test_check_descends :
    look (fun t => (t.phase, t.node)) (exec .sdCheck { descending .absent ⟨0, 0⟩ with phase := .bodyCheck }) =
    some (.bodyDescend, treeT1) := by decide
/-- SD11 through R199. -/
theorem test_sd_refill : look (fun t => (t.ret, t.bodyCur)) (exec .sdRefill (windowState .little)) =
    some (.bits ⟨0x78563412, 32⟩, 12) := by decide
/-- SD9 with IN_LEN = 17. -/
theorem test_sd_refill_truncated :
    look statusCode (exec .sdRefill { descending treeT1 ⟨0, 0⟩ with bodyCur := 14, inLen := 17 }) =
    some 7#3 := by decide
/-- SD13. -/
theorem test_emit8 :
    look (fun t => (t.out, t.emitted)) (exec (.sdEmit8 0xFF#8) (descending (.leaf 0xFF#8) ⟨0, 0⟩)) =
    some ([(0, 0xFF#8)], 1) := by decide
/-- SD14. -/
theorem test_emit4hi :
    look (fun t => (t.nibHi, t.nibFull, t.out)) (exec (.sdEmit4hi 0x0A#8) (nibbleLeaf false 0x0A#8 .truncate)) =
    some (0xA0#8, true, []) := by decide
/-- SD17. -/
theorem test_emit4hi_wide :
    faultOf (exec (.sdEmit4hi 0x1F#8) (nibbleLeaf false 0x1F#8 .fault)) = some .wideNibble := by decide
/-- SD15. -/
theorem test_emit4lo :
    look (fun t => (t.out, t.nibFull)) (exec (.sdEmit4lo 0x0B#8) (nibbleLeaf true 0x0B#8 .truncate)) =
    some ([(0, 0xAB#8)], false) := by decide
/-- SD21. -/
theorem test_reset : look statusCode (exec .sdReset (descending treeT1 ⟨0, 0⟩)) = some 0#3 := by decide

end Sys2Proof.Tests
end

