-- ==== Sys2Proof/Tests/Witnesses.lean ====
section
/-! SUPPORT. For every obligation with hypotheses, a concrete state and operands that meet all of them together,
and one for each clause, at a boundary value of its range where it has one. -/

namespace Sys2Proof.Tests

open Sys2Proof Sys2Proof.Machine

/-! ## Encoding -/

/-- The last address of a region, every flag and every offset bit set. -/
theorem witness_encodeThenDecode :
    Config.expected.ok ∧ WellFormed Config.expected (.treeNode 515 true true 63#6) = true ∧
      encode Config.expected (.treeNode 515 true true 63#6) = some (.node 515, [0xFF#8]) := by decide

theorem witness_decodeThenEncode : decode Config.expected .bit [1#8] = .ok .bodyBit1 := by decide

theorem witness_tableWord :
    State.reset.cfg = Config.expected ∧ decodeTableWord 32 0x78563412 =
      some (.bodyWindow 0x12#8 0x34#8 0x56#8 0x78#8) := by decide

/-! ## What a step runs -/

/-- The reset state with an instruction put straight to a unit. -/
def issued (q : Issue) : State := { State.reset with issue := some q }

theorem witness_issued_word :
    (issued (.word (.node 5) [0xC0#8])).issue = some (.word (.node 5) [0xC0#8]) ∧
      decode State.reset.cfg (.node 5) [0xC0#8] = .ok (.treeNode 5 true true 0#6) := by decide

theorem witness_issued_word_undecodable :
    (issued (.word .bit [2#8])).issue = some (.word .bit [2#8]) ∧
      decode State.reset.cfg .bit [2#8] = .error .notABit := by decide

theorem witness_issued_op : (issued (.op (.bvMake 5 0))).issue = some (.op (.bvMake 5 0)) := by decide

/-- A body state with one input of the host to come. -/
def withInput (e : HostInput) : State := { descending treeT1 ⟨1, 1⟩ with inputs := [e] }

theorem witness_input_rst :
    (withInput .rst).issue = none ∧ (withInput .rst).inputs = .rst :: [] := by decide

theorem witness_input_start :
    (withInput (.start (2 ^ 24))).issue = none ∧
      (withInput (.start (2 ^ 24))).inputs = .start (2 ^ 24) :: [] := by decide

theorem witness_input_putIn :
    (withInput (.putIn (2 ^ 24 - 1) 7#8)).issue = none ∧
      (withInput (.putIn (2 ^ 24 - 1) 7#8)).inputs = .putIn (2 ^ 24 - 1) 7#8 :: [] ∧
      2 ^ 24 - 1 < 2 ^ (withInput (.putIn (2 ^ 24 - 1) 7#8)).cfg.inAddrW := by decide

theorem witness_input_putIn_outside :
    (withInput (.putIn (2 ^ 24) 7#8)).issue = none ∧
      (withInput (.putIn (2 ^ 24) 7#8)).inputs = .putIn (2 ^ 24) 7#8 :: [] ∧
      2 ^ (withInput (.putIn (2 ^ 24) 7#8)).cfg.inAddrW ≤ 2 ^ 24 := by decide

theorem witness_input_quiet :
    (withInput .quiet).issue = none ∧ (withInput .quiet).inputs = .quiet :: [] ∧
      ownStep (withInput .quiet) = some .descBranch := by decide

theorem witness_enabled_readHeader :
    Undisturbed (start .readHeader imageP1) ∧ (start .readHeader imageP1).phase = .readHeader := ⟨⟨rfl, rfl⟩, rfl⟩

theorem witness_enabled_readTree :
    Undisturbed (start .readTree imageP1) ∧ (start .readTree imageP1).phase = .readTree := ⟨⟨rfl, rfl⟩, rfl⟩

theorem witness_enabled_check :
    Undisturbed (start .bodyCheck imageP1) ∧ (start .bodyCheck imageP1).phase = .bodyCheck := ⟨⟨rfl, rfl⟩, rfl⟩

theorem witness_enabled_leaf :
    Undisturbed (descending (.leaf 0x41#8) ⟨0, 0⟩) ∧ (descending (.leaf 0x41#8) ⟨0, 0⟩).phase = .bodyDescend ∧
      (descending (.leaf 0x41#8) ⟨0, 0⟩).node = .leaf 0x41#8 := ⟨⟨rfl, rfl⟩, rfl, rfl⟩

theorem witness_enabled_refill :
    Undisturbed (descending treeT1 ⟨0, 0⟩) ∧ (descending treeT1 ⟨0, 0⟩).phase = .bodyDescend ∧
      (descending treeT1 ⟨0, 0⟩).node = .internal (.leaf 0x41#8) (.leaf 0x42#8) ∧
      (descending treeT1 ⟨0, 0⟩).pend.w = 0 := ⟨⟨rfl, rfl⟩, rfl, rfl, rfl⟩

theorem witness_enabled_branch :
    Undisturbed (descending treeT1 ⟨1, 1⟩) ∧ (descending treeT1 ⟨1, 1⟩).phase = .bodyDescend ∧
      (descending treeT1 ⟨1, 1⟩).node = .internal (.leaf 0x41#8) (.leaf 0x42#8) ∧
      1 ≤ (descending treeT1 ⟨1, 1⟩).pend.w := ⟨⟨rfl, rfl⟩, rfl, rfl, Nat.le_refl 1⟩

theorem witness_quiet_phases :
    (Undisturbed State.reset ∧ State.reset.phase = .idle) ∧
    (Undisturbed (start .done []) ∧ (start .done []).phase = .done) ∧
    (Undisturbed (start .failed []) ∧ (start .failed []).phase = .failed) :=
  ⟨⟨⟨rfl, rfl⟩, rfl⟩, ⟨⟨rfl, rfl⟩, rfl⟩, ⟨⟨rfl, rfl⟩, rfl⟩⟩

/-- A phase that a state's next step leaves, with the phase it goes to: what PhasesFollowTheTransitionTable takes. -/
theorem witness_phases :
    look (fun t => t.phase) (step State.reset) = some .idle ∧
    look (fun t => t.phase) (step (start .readHeader imageP1)) = some .readTree ∧
    look (fun t => t.phase) (step (start .readHeader [])) = some .failed ∧
    look (fun t => t.phase) (step { start .readTree imageP1 with treeEnd := 8 }) = some .bodyCheck ∧
    look (fun t => t.phase) (step (start .readTree [])) = some .failed ∧
    look (fun t => t.phase) (step (start .bodyCheck imageP1)) = some .done ∧
    look (fun t => t.phase) (step { descending .absent ⟨0, 0⟩ with phase := .bodyCheck }) = some .bodyDescend ∧
    look (fun t => t.phase) (step (descending (.leaf 0x41#8) ⟨0, 0⟩)) = some .bodyCheck ∧
    look (fun t => t.phase) (step (descending treeT1 ⟨1, 1⟩)) = some .bodyDescend ∧
    look (fun t => t.phase) (step (descending (.internal .absent .absent) ⟨1, 1⟩)) = some .failed ∧
    look (fun t => t.phase) (step (start .done [])) = some .done ∧
    look (fun t => t.phase) (step (start .failed [])) = some .failed := by decide

/-! ## The bit extractor -/

theorem witness_make : 32 ≤ State.reset.cfg.bvMax := by decide

theorem witness_concat :
    BitValue.ok ⟨1, 1⟩ ∧ BitValue.ok ⟨2 ^ 31 - 1, 31⟩ ∧ 1 + 31 ≤ State.reset.cfg.bvMax := by decide

theorem witness_msb_matches : BitValue.ok ⟨0, 0⟩ ∧ BitValue.ok ⟨7, 3⟩ := by decide

theorem witness_shr : BitValue.ok ⟨0b1101, 4⟩ ∧ 4 - 5 ≤ State.reset.cfg.bvMax := by decide

theorem witness_shl : BitValue.ok ⟨0b1101, 4⟩ ∧ 4 + 28 ≤ State.reset.cfg.bvMax := by decide

theorem witness_dropMsb :
    (BitValue.ok ⟨1, 1⟩ ∧ 1 ≤ 1 ∧ 1 - 1 ≤ State.reset.cfg.bvMax) ∧ (BitValue.ok ⟨0, 0⟩ ∧ BitValue.empty.w = 0) := by
  decide

theorem witness_wider :
    State.reset.cfg.bvMax < 33 ∧ State.reset.cfg.bvMax < 1 + 32 ∧ State.reset.cfg.bvMax < 34 - 1 ∧
      State.reset.cfg.bvMax < 30 + 3 ∧ State.reset.cfg.bvMax < 34 - 1 := by decide

/-- The five operations that return a BitValue, each on operands that fill `BV_MAX` or are its smallest. -/
theorem witness_returned :
    look (fun t => t.ret) (exec (.bvMake (2 ^ 32) 32) State.reset) = some (.bits ⟨0, 32⟩) ∧
    look (fun t => t.ret) (exec (.bvConcat ⟨1, 1⟩ ⟨0, 31⟩) State.reset) = some (.bits ⟨2 ^ 31, 32⟩) ∧
    look (fun t => t.ret) (exec (.bvShr ⟨3, 2⟩ 2) State.reset) = some (.bits ⟨0, 0⟩) ∧
    look (fun t => t.ret) (exec (.bvShl ⟨3, 2⟩ 30) State.reset) = some (.bits ⟨3 * 2 ^ 30, 32⟩) ∧
    look (fun t => t.ret) (exec (.bvDropmsb ⟨1, 1⟩) State.reset) = some (.bits ⟨0, 0⟩) := by decide

theorem witness_concatParts : BitValue.ok ⟨0b10, 2⟩ ∧ BitValue.ok ⟨0b011, 3⟩ := by decide

/-! ## The formats of the header and the tree -/

theorem witness_headerRows :
    (start .readHeader []).phase = .readHeader ∧ (0x29#8 : Byte) ≠ (start .readHeader []).cfg.magic4 ∧
      (0x29#8 : Byte) ≠ (start .readHeader []).cfg.magic8 ∧
      (0x24#8 : Byte) = (start .readHeader []).cfg.magic4 ∧
      (0x28#8 : Byte) = (start .readHeader []).cfg.magic8 ∧
      (0x28#8 : Byte) ≠ (start .readHeader []).cfg.magic4 := by decide

theorem witness_otherPhases :
    State.reset.phase ≠ .readHeader ∧ State.reset.phase ≠ .readTree ∧ State.reset.phase ≠ .bodyCheck ∧
      State.reset.phase ≠ .bodyDescend := by decide

theorem witness_windowBits : (0 : Nat) < 32 ∧ (31 : Nat) < 32 := by decide

/-! ## The tree decoder and the trie store -/

/-- A region that ends with IN, and one that ends one byte past it; IN itself is an `rd`. -/
theorem witness_decodenode :
    (∀ place k, k < (start .idle imageP1).inLen →
      readIn (start .idle imageP1) place k = readIn (start .idle imageP1) place k) ∧
    12 ≤ (start .idle imageP1).inLen ∧ (start .idle imageP1).inLen < 13 :=
  ⟨fun _ _ _ => rfl, by decide⟩

/-- `treeSel = 1`: the deepest node stands at depth 1. -/
theorem witness_depth :
    { start .readTree imageP1 with treeSel := 1#8, treeEnd := 8 }.treeEnd.toNat = 6 + 2 * (1#8 : Byte).toNat ∧
      follow (decodeRoot { start .readTree imageP1 with treeSel := 1#8, treeEnd := 8 }) [true] ≠ .absent := by
  decide

theorem witness_rootPresent :
    6 ≤ { start .readTree (imageP1.take 6) with treeEnd := 6 }.treeEnd.toNat ∧
      { start .readTree (imageP1.take 6) with treeEnd := 6 }.inLen = 6 := by decide

theorem witness_rootAbsent :
    6 ≤ { start .readTree (imageP1.take 5) with treeEnd := 6 }.treeEnd.toNat ∧
      { start .readTree (imageP1.take 5) with treeEnd := 6 }.inLen = 5 := by decide

/-- TD1 and TD3: both children, and none. -/
theorem witness_children :
    (8 % 2 = 0 ∧ decodeNode (fun _ _ => 0xC0#8) [] 5 8 false = .internal (.leaf 0xC0#8) (.leaf 0xC0#8)) ∧
    (8 % 2 = 0 ∧ decodeNode (fun _ _ => 0x00#8) [] 7 8 false = .internal .absent .absent) := by decide

/-- TD11 and TD12: through a leaf, and onto a node. -/
theorem witness_blocked :
    (2 ≤ State.reset.cfg.bvMax + 1 ∧ Blocked (.internal .absent (.leaf 0x41#8)) (pathBits ⟨0b10, 2⟩)) ∧
    Blocked (.internal .absent (.leaf 0x41#8)) (pathBits ⟨0b1, 1⟩) :=
  ⟨⟨by decide, Or.inr ⟨1, by decide, 0x41#8, by decide⟩⟩, Or.inl (by decide)⟩

/-- The widest path an extractor of 32 bits takes apart, and the narrowest it does not. -/
theorem witness_widePath :
    BitValue.w ⟨0, 33⟩ ≤ State.reset.cfg.bvMax + 1 ∧ State.reset.cfg.bvMax + 1 < BitValue.w ⟨0, 34⟩ ∧
      refusalOf (exec (.trieInsert .absent ⟨0, 34⟩ 0#8) State.reset) = some .widerThanBvMax ∧
      look (fun t => t.ret) (exec (.trieInsert (.leaf 1#8) ⟨0, 34⟩ 0#8) State.reset) = some .reject := by decide

/-- TD10. -/
theorem witness_notBlocked : ¬ Blocked .absent (pathBits ⟨0b1, 1⟩) := by
  rintro (h | ⟨k, hk, x, hx⟩)
  · exact absurd h (by decide)
  · have hk : k < 1 := hk
    obtain rfl : k = 0 := by omega
    have hx : Trie.absent = .leaf x := hx
    cases hx

theorem witness_fromMap :
    look (fun t => t.ret) (exec (.trieFrommap [(⟨1, 1⟩, 0x42#8), (⟨1, 1⟩, 0x43#8)]) State.reset) =
      some .reject ∧
    refusalOf (exec (.trieFrommap [(⟨0, 34⟩, 0x42#8)]) State.reset) = some .widerThanBvMax ∧
    look (fun t => t.ret) (exec (.trieFrommap [(⟨1, 1⟩, 0x42#8)]) State.reset) =
      some (.trie (.internal .absent (.leaf 0x42#8))) := by decide

/-- Two codes of one bit; and a code that is a prefix of another. -/
theorem witness_prefixFree :
    (PrefixFree [(⟨1, 1⟩, 0x42#8), (⟨0, 1⟩, 0x41#8)] ∧ ¬ PrefixFree [(⟨1, 1⟩, 0x42#8), (⟨2, 2⟩, 0x41#8)]) ∧
    (∀ p ∈ [((⟨1, 1⟩ : BitValue), (0x42#8 : Byte)), (⟨2, 2⟩, 0x41#8)], p.1.w ≤ State.reset.cfg.bvMax + 1) := by
  unfold PrefixFree; decide

theorem witness_fromMapOrder :
    [((⟨0, 33⟩ : BitValue), (0x41#8 : Byte)), (⟨1, 1⟩, 0x42#8)].Perm [(⟨1, 1⟩, 0x42#8), (⟨0, 33⟩, 0x41#8)] ∧
      (∀ p ∈ [((⟨0, 33⟩ : BitValue), (0x41#8 : Byte)), (⟨1, 1⟩, 0x42#8)], p.1.w ≤ State.reset.cfg.bvMax + 1) :=
  ⟨List.Perm.swap _ _ _, by decide⟩

theorem witness_fromMapTooWide :
    ∃ p ∈ [((⟨1, 1⟩ : BitValue), (0x41#8 : Byte)), (⟨0, 34⟩, 0x42#8)], State.reset.cfg.bvMax + 1 < p.1.w :=
  ⟨(⟨0, 34⟩, 0x42#8), by decide, by decide⟩

/-! ## The descent engine -/

/-- SD9: the last whole window, and one byte less. -/
theorem witness_refill :
    ((descending treeT1 ⟨0, 0⟩).phase = .bodyDescend ∧
      (descending treeT1 ⟨0, 0⟩).node = .internal (.leaf 0x41#8) (.leaf 0x42#8) ∧
      (descending treeT1 ⟨0, 0⟩).pend = ⟨0, 0⟩ ∧
      (descending treeT1 ⟨0, 0⟩).bodyCur + 4 = (descending treeT1 ⟨0, 0⟩).inLen) ∧
    { descending treeT1 ⟨0, 0⟩ with inLen := 11 }.inLen <
      { descending treeT1 ⟨0, 0⟩ with inLen := 11 }.bodyCur + 4 := by decide

/-- A present and an absent child for each value of the bit. -/
theorem witness_branch :
    (descending (.internal .absent (.leaf 1#8)) ⟨1, 1⟩).phase = .bodyDescend ∧
    1 ≤ (descending (.internal .absent (.leaf 1#8)) ⟨1, 1⟩).pend.w ∧
    (1 : Nat).testBit (1 - 1) = true ∧ (0 : Nat).testBit (1 - 1) = false ∧
    (if true = true then Trie.leaf 1#8 else .absent) ≠ .absent ∧
    (if false = true then Trie.leaf 1#8 else .absent) = .absent ∧
    (if false = true then .absent else Trie.leaf 1#8) ≠ .absent ∧
    (if true = true then .absent else Trie.leaf 1#8) = .absent := by decide

theorem witness_streamBits :
    (descending treeT1 ⟨0, 1⟩).phase = .bodyDescend ∧
    (descending treeT1 ⟨0, 1⟩).node = .internal (.leaf 0x41#8) (.leaf 0x42#8) ∧
    1 ≤ (descending treeT1 ⟨0, 1⟩).pend.w ∧ (0 : Nat).testBit (1 - 1) = false ∧
    (1 : Nat).testBit (1 - 1) = true ∧ Trie.leaf 0x41#8 ≠ .absent := by decide

/-- The last OUT address. -/
theorem witness_leaf8 :
    { descending (.leaf 0xFF#8) ⟨0, 0⟩ with emitted := 0xFFFFFF#24 }.phase = .bodyDescend ∧
    { descending (.leaf 0xFF#8) ⟨0, 0⟩ with emitted := 0xFFFFFF#24 }.node = .leaf 0xFF#8 ∧
    { descending (.leaf 0xFF#8) ⟨0, 0⟩ with emitted := 0xFFFFFF#24 }.mode = .byte8 := by decide

/-- The widest symbol under TRUNCATE, and the widest nibble under FAULT, in both halves of a pair. -/
theorem witness_leaf4 :
    ((nibbleLeaf false 0xFF#8 .truncate).cfg.widePolicy = .truncate ∧
      (nibbleLeaf false 0xFF#8 .truncate).phase = .bodyDescend ∧
      (nibbleLeaf false 0xFF#8 .truncate).node = .leaf 0xFF#8 ∧
      (nibbleLeaf false 0xFF#8 .truncate).mode = .nibble4 ∧
      (nibbleLeaf false 0xFF#8 .truncate).nibFull = false) ∧
    ((0xF#8 : Byte).toNat ≤ 0xF ∧ (nibbleLeaf true 0xF#8 .fault).phase = .bodyDescend ∧
      (nibbleLeaf true 0xF#8 .fault).node = .leaf 0xF#8 ∧
      (nibbleLeaf true 0xF#8 .fault).mode = .nibble4 ∧ (nibbleLeaf true 0xF#8 .fault).nibFull = true) := by decide

/-- The narrowest wide symbol, in both halves of a pair; and an instruction that faults. -/
theorem witness_wide :
    ((nibbleLeaf false 0x10#8 .fault).phase = .bodyDescend ∧
      (nibbleLeaf false 0x10#8 .fault).node = .leaf 0x10#8 ∧
      (nibbleLeaf false 0x10#8 .fault).mode = .nibble4 ∧ 0xF < (0x10#8 : Byte).toNat ∧
      (nibbleLeaf false 0x10#8 .fault).cfg.widePolicy = .fault ∧
      (nibbleLeaf false 0x10#8 .fault).nibFull = false ∧ (nibbleLeaf true 0x10#8 .fault).nibFull = true) ∧
    faultOf (exec .descLeaf (nibbleLeaf true 0x10#8 .fault)) = some .wideNibble := by decide

theorem witness_descent :
    Undisturbed (descending treeT1 ⟨0, 0⟩) ∧ (descending treeT1 ⟨0, 0⟩).inStable = true ∧
      (descending treeT1 ⟨0, 0⟩).phase = .bodyDescend ∧ (descending treeT1 ⟨0, 0⟩).node ≠ .absent :=
  ⟨⟨rfl, rfl⟩, by decide⟩

/-- DS3: a code that straddles a window. -/
theorem witness_descentConsumes :
    descend Config.expected (fun a => if a = 14 then 0x80#8 else 0#8) 18
      (.internal (.leaf 0x58#8) (.internal (.leaf 0x59#8) (.leaf 0x5A#8))) ⟨1, 1⟩ 14 =
    .symbol 0x5A#8 ⟨0, 31⟩ 18 := by decide

/-! ## The stream decoder -/

theorem witness_startBegins :
    State.reset.phase = .idle ∧ 2 ^ 24 ≤ 2 ^ State.reset.cfg.inAddrW ∧
      2 ^ State.reset.cfg.inAddrW < 2 ^ 24 + 1 ∧ (start .done []).phase = .done ∧
      (start .failed []).phase = .failed := by decide

theorem witness_startIgnored :
    (start .readHeader []).phase = .readHeader ∧ (start .readTree []).phase = .readTree ∧
      (start .bodyCheck []).phase = .bodyCheck ∧ (descending treeT1 ⟨0, 0⟩).phase = .bodyDescend := by decide

/-- A header of exactly 5 bytes in each mode. -/
theorem witness_goodHeader :
    ((start .readHeader [0x28#8, 4#8, 0#8, 0#8, 1#8]).phase = .readHeader ∧
      5 ≤ (start .readHeader [0x28#8, 4#8, 0#8, 0#8, 1#8]).inLen ∧
      readIn (start .readHeader [0x28#8, 4#8, 0#8, 0#8, 1#8]) [] 0 =
        (start .readHeader [0x28#8, 4#8, 0#8, 0#8, 1#8]).cfg.magic8 ∧
      Config.expected.magic8 ≠ Config.expected.magic4) ∧
    (readIn (start .readHeader [0x24#8, 4#8, 0#8, 0#8, 1#8]) [] 0 =
      (start .readHeader [0x24#8, 4#8, 0#8, 0#8, 1#8]).cfg.magic4) := by decide

/-- SD3, SD2 and SD4. -/
theorem witness_headerErrors :
    ((start .readHeader []).phase = .readHeader ∧ (start .readHeader []).inLen < 1) ∧
    (1 ≤ (start .readHeader [0#8]).inLen ∧
      readIn (start .readHeader [0#8]) [] 0 ≠ (start .readHeader [0#8]).cfg.magic4 ∧
      readIn (start .readHeader [0#8]) [] 0 ≠ (start .readHeader [0#8]).cfg.magic8) ∧
    (1 ≤ (start .readHeader [0x28#8, 0#8, 0#8, 0#8]).inLen ∧
      (start .readHeader [0x28#8, 0#8, 0#8, 0#8]).inLen < 5 ∧
      readIn (start .readHeader [0x28#8, 0#8, 0#8, 0#8]) [] 0 =
        (start .readHeader [0x28#8, 0#8, 0#8, 0#8]).cfg.magic8) ∧
    (1 ≤ (start .readHeader [0x24#8]).inLen ∧ (start .readHeader [0x24#8]).inLen < 5 ∧
      readIn (start .readHeader [0x24#8]) [] 0 = (start .readHeader [0x24#8]).cfg.magic4) := by decide

/-- TD7 and TD8: IN of 6 and of 5 bytes. -/
theorem witness_readTree :
    ({ start .readTree (imageP1.take 6) with treeEnd := 6 }.phase = .readTree ∧
      6 ≤ { start .readTree (imageP1.take 6) with treeEnd := 6 }.treeEnd.toNat ∧
      6 ≤ { start .readTree (imageP1.take 6) with treeEnd := 6 }.inLen) ∧
    { start .readTree (imageP1.take 5) with treeEnd := 6 }.inLen ≤ 5 := by decide

theorem witness_check :
    ((start .bodyCheck []).phase = .bodyCheck ∧
      (start .bodyCheck []).emitted = (start .bodyCheck []).declLen) ∧
    { start .bodyCheck [] with declLen := 1#24 }.emitted ≠
      { start .bodyCheck [] with declLen := 1#24 }.declLen := by decide

theorem witness_status :
    State.reset.phase = .idle ∧ (start .readHeader []).phase = .readHeader ∧
      (start .readTree []).phase = .readTree ∧ (start .bodyCheck []).phase = .bodyCheck ∧
      (start .bodyDescend []).phase = .bodyDescend ∧ (start .done []).phase = .done ∧
      (start .failed []).phase = .failed := by decide

/-! ## Rules about the whole machine -/

/-- Each way into FAILED; DS5's branch changes `pend`, a short header changes `mode`. -/
theorem witness_errorEntry :
    look (fun t => t.phase) (exec (.hdrBadmagic 0#8) (start .readHeader [])) = some .failed ∧
    look (fun t => (t.phase, t.mode)) (exec .sdReadheader (start .readHeader [0x28#8])) =
      some (.failed, .byte8) ∧
    look (fun t => t.phase) (exec .sdReadtree (start .readTree [])) = some .failed ∧
    look (fun t => t.phase) (exec .descRefill { descending treeT1 ⟨0, 0⟩ with inLen := 11 }) = some .failed ∧
    look (fun t => t.phase) (exec .sdRefill { descending treeT1 ⟨0, 0⟩ with inLen := 11 }) = some .failed ∧
    look (fun t => (t.phase, t.pend)) (exec .descBranch (descending (.internal .absent .absent) ⟨0, 1⟩)) =
      some (.failed, ⟨0, 0⟩) ∧
    (descending treeT1 ⟨0, 0⟩).phase ≠ .failed := by decide

theorem witness_inIsTheHosts :
    look (fun t => t.inp) (step (withInput (.putIn 8 7#8))) =
      some (memWrite (descending treeT1 ⟨1, 1⟩).inp 8 7#8) ∧
    look (fun t => t.inp) (step (descending treeT1 ⟨1, 1⟩)) = some (descending treeT1 ⟨1, 1⟩).inp := by decide

/-- The last OUT address is written. -/
theorem witness_outWritten :
    look (fun t => (t.out, t.emitted)) (exec .descLeaf
      { descending (.leaf 0xFF#8) ⟨0, 0⟩ with emitted := 0xFFFFFF#24 }) =
        some ([(2 ^ 24 - 1, 0xFF#8)], 0#24) ∧
    Instr.descLeaf ≠ .sdReset := by decide

/-- For each register a row that changes it. -/
theorem witness_writers :
    look (fun t => t.inLen) (exec (.sdStart 1) State.reset) = some 1 ∧
    look (fun t => t.mode) (exec .hdrMagic8 (start .readHeader [])) = some .byte8 ∧
    look (fun t => t.declLen) (exec (.hdrLen 1#24) (start .readHeader [])) = some 1#24 ∧
    look (fun t => (t.treeSel, t.treeEnd)) (exec (.treeSel 1#8) (start .readHeader [])) = some (1#8, 8) ∧
    look (fun t => (t.root, t.bodyCur)) (exec .sdReadtree { start .readTree imageP1 with treeEnd := 8 }) =
      some (treeT1, 8) ∧
    look (fun t => (t.node, t.pend)) (exec .bodyBit1 (descending treeT1 ⟨1, 1⟩)) =
      some (.leaf 0x42#8, ⟨0, 0⟩) ∧
    look (fun t => t.emitted) (exec (.sdEmit4lo 1#8) (nibbleLeaf true 1#8 .truncate)) = some 1 ∧
    look (fun t => (t.nibFull, t.nibHi)) (exec (.sdEmit4hi 1#8) (nibbleLeaf false 1#8 .truncate)) =
      some (true, 0x10#8) ∧
    look (fun t => t.err) (exec .sdReadheader (start .readHeader [])) = some .truncatedInput := by decide

theorem witness_windows :
    look (fun t => t.bodyCur) (exec .descRefill (descending treeT1 ⟨0, 0⟩)) = some 12 ∧
    look (fun t => t.bodyCur) (exec .sdRefill (descending treeT1 ⟨0, 0⟩)) = some 12 ∧
    look (fun t => t.bodyCur) (exec .sdReadtree { start .readTree imageP1 with treeEnd := 8 }) = some 8 ∧
    (descending treeT1 ⟨0, 0⟩).bodyCur = 8 ∧ (start .readTree imageP1).bodyCur = 0 := by decide

theorem witness_canonical :
    memWf (bytesAt 0 [1#8, 2#8]) = true ∧ memWf (memWrite [] 0 1#8) = true ∧
      (∀ k, memRead (memWrite [] 0 1#8) k = memRead (bytesAt 0 [1#8]) k) := ⟨by decide, by decide, fun _ => rfl⟩

/-- A finished call whose IN the host has changed, with one input to come. -/
def doneInputs (e : HostInput) : State := { start .done imageP1 with inStable := false, inputs := [e] }

theorem witness_hostWrite :
    ((withInput (.putIn 0 7#8)).issue = none ∧ (withInput (.putIn 0 7#8)).inputs = .putIn 0 7#8 :: [] ∧
      0 < 2 ^ (withInput (.putIn 0 7#8)).cfg.inAddrW ∧ busy (withInput (.putIn 0 7#8)).phase = true) ∧
    (busy { withInput (.putIn 0 7#8) with phase := .idle }.phase = false ∧
      { withInput (.putIn 0 7#8) with phase := .idle }.inStable = true) := by decide

/-- A start after a call whose IN the host changed: the one way `inStable` comes back. -/
theorem witness_stableAgain :
    (doneInputs (.start 6)).inStable = false ∧
      look (fun t => (t.inStable, t.phase)) (step (doneInputs (.start 6))) = some (true, .readHeader) := by decide

/-- A call of program P1's tree and of length 1, at its end. -/
def doneState (inputs : List HostInput) : State :=
  { descending (.leaf 0x41#8) ⟨0x60000000, 31⟩ with
    phase := .done, declLen := 1#24, emitted := 1, bodyCur := 12, out := [(0, 0x41#8)], inputs := inputs }

/-- A listed address of `bytesAt` lies in its range. -/
theorem bytesAt_range (bytes : List Byte) (from_ a : Nat) :
    (memRead (bytesAt from_ bytes) a).isSome = true → a < from_ + bytes.length := by
  induction bytes generalizing from_ with
  | nil => simp [bytesAt, memRead]
  | cons b rest ih =>
    simp only [bytesAt, memRead, List.length_cons]
    split
    · omega
    · intro h
      have := ih (from_ + 1) h
      omega

theorem treeT1_depth (path : List Bool) (h : follow treeT1 path ≠ .absent) : path.length ≤ 1 := by
  match path, h with
  | [], _ => simp
  | [b], _ => simp
  | true :: b :: rest, h => exact absurd rfl h
  | false :: b :: rest, h => exact absurd rfl h

theorem doneState_inv (inputs : List HostInput) : BlockInv (doneState inputs) where
  cfgOk := show Config.expected.ok by decide
  inWf := show memWf (bytesAt 0 imageP1) = true by decide
  outWf := show memWf [(0, 0x41#8)] = true by decide
  inInside := fun a h => by
    have h' := bytesAt_range imageP1 0 a h
    have : a < 12 := h'
    show a < 2 ^ 24
    omega
  outInside := fun a h => by
    have : (memRead [(0, (0x41#8 : Byte))] a).isSome = true := h
    simp only [memRead] at this
    split at this
    · rename_i h0
      show a < 2 ^ 24
      omega
    · simp at this
  noIssue := rfl
  registers :=
    { inLenWidth := show 12 < 2 ^ 25 by decide
      bodyCurWidth := show 12 < 2 ^ 25 by decide
      pendWidth := show 31 ≤ 32 by decide
      pendOk := show BitValue.ok ⟨0x60000000, 31⟩ by decide
      rootPresent := show treeT1 ≠ .absent by decide
      nodePresent := show Trie.leaf 0x41#8 ≠ .absent by decide }
  lenFits := fun _ => show 12 ≤ 2 ^ 24 by decide
  header := fun _ => ⟨show 5 ≤ 12 by decide, rfl⟩
  body := fun _ =>
    { rootInside := show 6 ≤ 12 by decide
      emittedLe := show 1 ≤ (1#24).toNat by decide
      cursorAligned := ⟨1, rfl⟩
      cursorInside := Or.inr (show 12 ≤ 12 by decide)
      byteMode := fun _ => rfl
      rootInternal := ⟨_, _, rfl⟩
      rootDepth := treeT1_depth
      outWritten := fun a h => by
        have : a < 1 := h
        obtain rfl : a = 0 := by omega
        rfl }
  builtFromIn := fun h => by rcases h with h | h <;> exact absurd h (by simp [doneState])
  halfByte := fun h => absurd h (by simp [doneState])
  descending := fun h => absurd h (by simp [doneState])
  finished := fun _ => ⟨rfl, rfl⟩

theorem witness_hostReads : BlockInv (doneState []) ∧ (doneState []).phase = .done := ⟨doneState_inv [], rfl⟩

/-- A finished block that its host starts again. -/
theorem witness_invariant :
    BlockInv (doneState [.start 6]) ∧
      look (fun t => (t.phase, t.inLen)) (step (doneState [.start 6])) = some (.readHeader, 6) :=
  ⟨doneState_inv [.start 6], by decide⟩

/-- A call of each kind: P1, an empty IN (SD3), and a wide symbol under FAULT (P8). -/
theorem witness_call :
    Undisturbed (start .readHeader imageP1) ∧ (start .readHeader imageP1).inStable = true ∧
      (start .readHeader imageP1).phase = .readHeader ∧
      decodeCall Config.expected (readIn (start .readHeader imageP1) []) 12 =
        .ok [0x41#8, 0x42#8, 0x42#8, 0x41#8] ∧
      decodeCall Config.expected (readIn (start .readHeader []) []) 0 = .err .truncatedInput ∧
      decodeCall { Config.expected with widePolicy := .fault }
        (readIn (start .readHeader [0x24#8, 1#8, 0#8, 0#8, 1#8, 0xC0#8, 0x1F#8, 0x25#8, 0x40#8, 0#8, 0#8, 0#8]) [])
        12 = .wideNibble :=
  ⟨⟨rfl, rfl⟩, by decide⟩

theorem witness_valuesBefore :
    Undisturbed (start .readHeader imageP1) ∧
    Undisturbed { start .readHeader imageP1 with emitted := 5, nibFull := true, out := [(0, 1#8)] } ∧
    (start .readHeader imageP1).phase = .readHeader ∧
    { start .readHeader imageP1 with emitted := 5, nibFull := true, out := [(0, 1#8)] }.phase = .readHeader ∧
    (start .readHeader imageP1).cfg =
      { start .readHeader imageP1 with emitted := 5, nibFull := true, out := [(0, 1#8)] }.cfg ∧
    (start .readHeader imageP1).inp =
      { start .readHeader imageP1 with emitted := 5, nibFull := true, out := [(0, 1#8)] }.inp ∧
    (start .readHeader imageP1).inLen =
      { start .readHeader imageP1 with emitted := 5, nibFull := true, out := [(0, 1#8)] }.inLen ∧
    (start .readHeader imageP1).inStable = true ∧
    { start .readHeader imageP1 with emitted := 5, nibFull := true, out := [(0, 1#8)] }.inStable = true :=
  ⟨⟨rfl, rfl⟩, ⟨rfl, rfl⟩, by decide⟩

/-- IN with one byte more than `inLen`, and without it. -/
theorem witness_bytesPast :
    Undisturbed { start .readHeader imageP1 with inLen := 11 } ∧
    { start .readHeader imageP1 with inLen := 11 }.inStable = true ∧
    (∀ a, a < 11 → memRead (bytesAt 0 imageP1) a = memRead (bytesAt 0 (imageP1.take 11)) a) :=
  ⟨⟨rfl, rfl⟩, rfl, by decide⟩

end Sys2Proof.Tests
end

section
/-! SUPPORT. Every step keeps the invariant of the block (R30, R31). -/

namespace Sys2Proof.Machine

/-! ### The root of a call's trie -/

/-- Each level of a decoded trie takes one pair of the region (R153). -/
theorem decodeNodeFuel_depth (rd : List Bool → Nat → Byte) (fuel : Nat) (place : List Bool) (a regionEnd : Nat)
    (isLeaf : Bool) (path : List Bool)
    (h : follow (decodeNodeFuel rd fuel place a regionEnd isLeaf) path ≠ .absent) :
    evenBase a + 2 * path.length < regionEnd := by
  induction fuel generalizing place a isLeaf path with
  | zero => simp [decodeNodeFuel] at h
  | succ fuel ih =>
    rw [decodeNodeFuel] at h
    split at h
    · simp at h
    · have ha : evenBase a < regionEnd := by unfold evenBase; omega
      match path with
      | [] => simpa using ha
      | b :: path =>
        split at h
        · simp at h
        · have h0 := evenBase_child0Addr a (descOff (rd place a))
          have h1 := evenBase_child1Addr a (descOff (rd place a))
          cases b with
          | false =>
            have := ih _ _ _ _ h
            rw [List.length_cons]; omega
          | true =>
            have := ih _ _ _ _ h
            rw [List.length_cons]; omega

/-- No node of the call's trie is deeper than the region has pairs past the root's (R153). -/
theorem decodeRoot_depth (s : State) (path : List Bool) (h : follow (decodeRoot s) path ≠ .absent) :
    4 + 2 * path.length < effEnd s :=
  decodeNodeFuel_depth _ _ _ _ _ _ _ h

/-- One bit of a path is the child a stream bit selects (R92). -/
theorem follow_singleton (t : Trie) (b : Bool) : follow t [b] = childOf t b := by
  cases t with
  | absent => rfl
  | leaf sym => rfl
  | internal c0 c1 => cases b <;> simp [childOf]

/-- The root is internal where the region holds its byte, and absent where it does not (R150). -/
theorem decodeRoot_cases (s : State) :
    (effEnd s ≤ 5 ∧ decodeRoot s = .absent) ∨ (6 ≤ effEnd s ∧ ∃ c0 c1, decodeRoot s = .internal c0 c1) := by
  unfold decodeRoot decodeNode
  by_cases h : effEnd s ≤ 5
  · left
    rw [Nat.sub_eq_zero_of_le h]
    exact ⟨h, rfl⟩
  · right
    obtain ⟨n, hn⟩ : ∃ n, effEnd s - 5 = n + 1 := ⟨effEnd s - 6, by omega⟩
    rw [hn, decodeNodeFuel, if_neg h]
    exact ⟨by omega, _, _, rfl⟩

/-! ### What the invariant asks in every phase -/

/-- The part of `BlockInv` that does not depend on the phase. -/
structure BaseInv (s : State) : Prop where
  cfgOk : s.cfg.ok
  inWf : memWf s.inp = true
  outWf : memWf s.out = true
  inInside : ∀ a, (memRead s.inp a).isSome = true → a < 2 ^ s.cfg.inAddrW
  outInside : ∀ a, (memRead s.out a).isSome = true → a < outSize
  noIssue : s.issue = none
  registers : RegistersHold s

theorem BlockInv.base {s : State} (h : BlockInv s) : BaseInv s := { h with }

/-- Before a good header is read, and in FAILED, the invariant asks nothing else but the bound of `inLen`. -/
theorem BaseInv.blockInv {s : State} (h : BaseInv s) (hp : pastHeader s.phase = false)
    (hl : busy s.phase = true → s.inLen ≤ 2 ^ s.cfg.inAddrW) : BlockInv s :=
  { h with
    lenFits := fun hb => hb.elim hl fun hd => by simp [hd, pastHeader] at hp
    header := fun hh => by simp [hh] at hp
    body := fun hb => by cases hs : s.phase <;> simp [hs, pastHeader, inBody] at hp hb
    builtFromIn := fun hb => by rcases hb with hb | hb <;> simp [hb, pastHeader] at hp
    halfByte := fun hb => by simp [hb, pastHeader] at hp
    descending := fun hb => by simp [hb, pastHeader] at hp
    finished := fun hb => by simp [hb, pastHeader] at hp }

/-! ### The enabled step by its phase -/

theorem exec_sdReadheader {s : State} (hp : s.phase = .readHeader) :
    exec .sdReadheader s = .next (readHeader s) := if_pos hp

theorem exec_sdReadtree {s : State} (hp : s.phase = .readTree) :
    exec .sdReadtree s = .next (readTree s) := if_pos hp

theorem exec_sdCheck {s : State} (hp : s.phase = .bodyCheck) :
    exec .sdCheck s = .next (checkDone s) := if_pos hp

/-- The state a descent's refill leaves: the window below the pending bits (R172). -/
theorem exec_descRefill {s : State} {c0 c1 : Trie} (hp : s.phase = .bodyDescend)
    (hn : s.node = .internal c0 c1) (hw : s.pend.w = 0) :
    exec .descRefill s = .next (refill (fun win t => setPend (bvConcat t.pend win) t) s) :=
  if_pos ((refillDue_iff s).2 ⟨hp, ⟨c0, c1, hn⟩, hw⟩)

theorem exec_descBranch {s : State} {c0 c1 : Trie} (hp : s.phase = .bodyDescend)
    (hn : s.node = .internal c0 c1) (hw : 1 ≤ s.pend.w) :
    exec .descBranch s = .next (branch (bvMsb s.pend) s) :=
  if_pos ((bitDue_iff s).2 ⟨hp, ⟨c0, c1, hn⟩, hw⟩)

/-- Which step is enabled (R190). -/
theorem ownStep_cases {s : State} {i : Instr} (h : ownStep s = some i) :
    (s.phase = .readHeader ∧ i = .sdReadheader) ∨
    (s.phase = .readTree ∧ i = .sdReadtree) ∨
    (s.phase = .bodyCheck ∧ i = .sdCheck) ∨
    (s.phase = .bodyDescend ∧ (∃ sym, s.node = .leaf sym) ∧ i = .descLeaf) ∨
    (s.phase = .bodyDescend ∧ (∃ c0 c1, s.node = .internal c0 c1) ∧ s.pend.w = 0 ∧ i = .descRefill) ∨
    (s.phase = .bodyDescend ∧ (∃ c0 c1, s.node = .internal c0 c1) ∧ 1 ≤ s.pend.w ∧ i = .descBranch) := by
  unfold ownStep at h
  cases hp : s.phase <;> simp only [hp] at h
  case readHeader => cases h; simp
  case readTree => cases h; simp
  case bodyCheck => cases h; simp
  case bodyDescend =>
    cases hn : s.node <;> simp only [hn] at h
    case leaf sym => cases h; simp
    case internal c0 c1 =>
      by_cases hw : s.pend.w = 0
      · rw [if_pos hw] at h; cases h; simp [hw]
      · rw [if_neg hw] at h; cases h; simp [Nat.one_le_iff_ne_zero, hw]
    case absent => cases h
  all_goals cases h

/-! ### Each update of a call keeps the invariant -/

section
variable {s : State} (h : BlockInv s)
include h

theorem raise_keeps_blockInv (k : ErrKind) (info : ErrInfo) : BlockInv (raise k info s) :=
  BaseInv.blockInv { h.base with registers := { h.registers with } } rfl nofun

theorem noteRead_keeps_blockInv : BlockInv (noteRead s) := by
  unfold noteRead
  split
  · exact h
  · exact { h with
      registers := { h.registers with }
      body := fun hb => { h.body hb with }
      builtFromIn := fun _ hs => absurd hs ‹_› }

theorem keepInputs_keeps_blockInv (rest : List HostInput) : BlockInv (keepInputs rest s) :=
  { h with
    registers := { h.registers with }
    body := fun hb => { h.body hb with } }

theorem setPend_keeps_blockInv {x : BitValue} (hw : x.w ≤ 32) (hx : x.ok) : BlockInv (setPend x s) :=
  { h with
    registers := { h.registers with pendWidth := hw, pendOk := hx }
    body := fun hb => { h.body hb with } }

/-- The magic byte's part of the header step, which an error may follow (R192). -/
theorem setMode_keeps_blockInv (hp : s.phase = .readHeader) (m : Mode) : BlockInv (setMode m s) :=
  BaseInv.blockInv { h.base with registers := { h.registers with } } (congrArg pastHeader hp)
    fun hb => h.lenFits (.inl hb)

theorem beginCall_keeps_blockInv {len : Nat} (hl : len ≤ 2 ^ s.cfg.inAddrW) : BlockInv (beginCall len s) :=
  BaseInv.blockInv
    { h.base with
      registers := { h.registers with
        inLenWidth := lt_of_le_of_lt hl (Nat.pow_lt_pow_succ Nat.one_lt_two) } }
    rfl fun _ => hl

/-- The draws of SD.RESET have the widths of their registers (log 5). -/
theorem resetBlock_keeps_blockInv : BlockInv (resetBlock s) :=
  BaseInv.blockInv
    { h.base with
      outWf := rfl
      outInside := nofun
      registers :=
        { inLenWidth := Nat.mod_lt _ (Nat.two_pow_pos _)
          bodyCurWidth := Nat.mod_lt _ (Nat.two_pow_pos _)
          pendWidth := Nat.le_of_lt_succ (Config.freeReset s.draws).pendWidth.isLt
          pendOk := Nat.mod_lt _ (Nat.two_pow_pos _)
          rootPresent := nodeOf_ne_absent _
          nodePresent := nodeOf_ne_absent _ } }
    rfl nofun

/-- A write of IN by the host: during a call it makes IN unstable, so the trie need no longer be IN's (R63). -/
theorem hostPutIn_keeps_blockInv {a : Nat} (b : Byte) (ha : a < 2 ^ s.cfg.inAddrW) :
    BlockInv (hostPutIn a b s) :=
  { h with
    inWf := memWrite_wf _ _ _ h.inWf
    inInside := fun k hk => by
      by_cases hka : k = a
      · exact hka ▸ ha
      · exact h.inInside k (by simpa [memRead_memWrite_other _ _ _ _ hka] using hk)
    registers := { h.registers with }
    body := fun hb => { h.body hb with }
    builtFromIn := fun hb hs => by
      have : s.phase = .bodyCheck ∨ s.phase = .bodyDescend := hb
      rcases this with hp | hp <;> simp [hp, busy] at hs }

/-! ### Each step of a call keeps the invariant -/

theorem readHeader_keeps_blockInv (hp : s.phase = .readHeader) : BlockInv (readHeader s) := by
  have hmode := setMode_keeps_blockInv h hp
  rcases readHeader_cases s with ⟨-, e⟩ | ⟨-, -, e⟩ | ⟨m, -, -, -, e⟩ | ⟨m, h5, -, e⟩ <;> rw [e]
  · exact raise_keeps_blockInv h _ _
  · exact noteRead_keeps_blockInv (raise_keeps_blockInv h _ _)
  · exact noteRead_keeps_blockInv (raise_keeps_blockInv (hmode m) _ _)
  · refine noteRead_keeps_blockInv ?_
    exact { hmode m with
      registers := { h.registers with }
      lenFits := fun _ => h.lenFits (.inl (congrArg busy hp))
      header := fun _ => ⟨h5, setSelector_treeEnd_toNat (readIn s [] 4) s⟩
      body := nofun
      builtFromIn := nofun
      halfByte := nofun
      descending := nofun
      finished := nofun }

/-- Body init on the root built from IN (R150, R153, R196). -/
theorem bodyInit_keeps_blockInv (hp : s.phase = .readTree) (hr : decodeRoot s ≠ .absent) :
    BlockInv (toPhase .bodyCheck (bodyInit (decodeRoot s) s)) := by
  obtain ⟨h5, hend⟩ := h.header (congrArg pastHeader hp)
  obtain ⟨hin, c0, c1, hroot⟩ := (decodeRoot_cases s).resolve_left fun hc => hr hc.2
  exact { h with
    registers := { h.registers with
      bodyCurWidth := lt_of_lt_of_le s.treeEnd.isLt (Nat.pow_le_pow_right Nat.two_pos (le_max_right _ _))
      pendWidth := Nat.zero_le _
      pendOk := Nat.one_pos
      rootPresent := hr }
    lenFits := fun _ => h.lenFits (.inl (congrArg busy hp))
    header := fun _ => ⟨h5, hend⟩
    body := fun _ =>
      { rootInside := le_trans hin (min_le_right _ _)
        emittedLe := Nat.zero_le _
        cursorAligned := ⟨0, rfl⟩
        cursorInside := .inl rfl
        byteMode := fun _ => rfl
        rootInternal := ⟨c0, c1, hroot⟩
        rootDepth := fun path hpath => by
          have hdeep := decodeRoot_depth s path hpath
          have heff : effEnd s ≤ s.treeEnd.toNat := min_le_left _ _
          show path.length ≤ s.treeSel.toNat
          omega
        outWritten := nofun }
    builtFromIn := fun _ _ => rfl
    halfByte := nofun
    descending := nofun
    finished := nofun }

theorem readTree_keeps_blockInv (hp : s.phase = .readTree) : BlockInv (readTree s) := by
  rcases readTree_cases s with ⟨-, e⟩ | ⟨hr, e⟩ <;> rw [e]
  · exact noteRead_keeps_blockInv (raise_keeps_blockInv h _ _)
  · exact noteRead_keeps_blockInv (bodyInit_keeps_blockInv h hp hr)

/-- SD.CHECK finds no held nibble at the end (R30), and starts a descent at the root, which every path from it
reaches. -/
theorem checkDone_keeps_blockInv (hp : s.phase = .bodyCheck) : BlockInv (checkDone s) := by
  have hbody := h.body (congrArg inBody hp)
  have hle := hbody.emittedLe
  have hhead := h.header (congrArg pastHeader hp)
  have hlen := h.lenFits (.inl (congrArg busy hp))
  rcases checkDone_cases s with ⟨hd, e⟩ | ⟨hd, e⟩ <;> rw [e]
  · exact { h with
      registers := { h.registers with }
      lenFits := fun _ => hlen
      header := fun _ => hhead
      body := fun _ => { hbody with }
      builtFromIn := by simp
      halfByte := nofun
      descending := nofun
      finished := fun _ => ⟨hd, by
        by_contra hn
        have := h.halfByte hp (by simpa using hn)
        rw [hd] at this
        omega⟩ }
  · have hlt : s.emitted.toNat < s.declLen.toNat := lt_of_le_of_ne hle fun he => hd (BitVec.eq_of_toNat_eq he)
    exact { h with
      registers := { h.registers with nodePresent := h.registers.rootPresent }
      lenFits := fun _ => hlen
      header := fun _ => hhead
      body := fun _ => { hbody with }
      builtFromIn := fun _ hs => h.builtFromIn (.inl hp) hs
      halfByte := nofun
      descending := fun _ => ⟨hlt, [], follow_nil _⟩
      finished := nofun }

/-- The first nibble of a byte is held, and that byte is still to be written (R202). -/
theorem holdNibble_keeps_blockInv (hp : s.phase = .bodyDescend) (hm : s.mode = .nibble4) (sym : Byte) :
    BlockInv (toPhase .bodyCheck (holdNibble sym s)) :=
  { h with
    registers := { h.registers with }
    lenFits := fun _ => h.lenFits (.inl (congrArg busy hp))
    header := fun _ => h.header (congrArg pastHeader hp)
    body := fun _ =>
      { h.body (congrArg inBody hp) with
        byteMode := fun hb => by
          have : s.mode = .byte8 := hb
          simp [hm] at this }
    builtFromIn := fun _ hs => h.builtFromIn (.inr hp) hs
    halfByte := fun _ _ => (h.descending hp).1
    descending := nofun
    finished := nofun }

/-- A byte is written at `emitted`, which lies below `declLen` and so does not wrap (R201, R65). -/
theorem putByte_keeps_blockInv (hp : s.phase = .bodyDescend) (hn : s.nibFull = false) (b : Byte) :
    BlockInv (toPhase .bodyCheck (putByte b s)) := by
  have hbody := h.body (congrArg inBody hp)
  obtain ⟨hlt, -⟩ := h.descending hp
  have hsucc : (s.emitted + 1#24).toNat = s.emitted.toNat + 1 := by
    have := s.declLen.isLt
    rw [BitVec.toNat_add, BitVec.toNat_ofNat]
    omega
  exact { h with
    outWf := memWrite_wf _ _ _ h.outWf
    outInside := fun a ha => by
      by_cases hae : a = s.emitted.toNat
      · exact hae ▸ s.emitted.isLt
      · exact h.outInside a (by simpa [memRead_memWrite_other _ _ _ _ hae] using ha)
    registers := { h.registers with }
    lenFits := fun _ => h.lenFits (.inl (congrArg busy hp))
    header := fun _ => h.header (congrArg pastHeader hp)
    body := fun _ =>
      { hbody with
        emittedLe := by
          show (s.emitted + 1#24).toNat ≤ s.declLen.toNat
          omega
        outWritten := fun a ha => by
          by_cases hae : a = s.emitted.toNat
          · simp [hae, memRead_memWrite_same]
          · have : a < (s.emitted + 1#24).toNat := ha
            simpa [memRead_memWrite_other _ _ _ _ hae] using hbody.outWritten a (by omega) }
    builtFromIn := fun _ hs => h.builtFromIn (.inr hp) hs
    halfByte := fun _ hf => by
      have : s.nibFull = true := hf
      simp [hn] at this
    descending := nofun
    finished := nofun }

/-- The held nibble may be let go in any phase. -/
theorem releaseNibble_keeps_blockInv : BlockInv (releaseNibble s) :=
  { h with
    registers := { h.registers with }
    body := fun hb => { h.body hb with byteMode := fun _ => rfl }
    halfByte := nofun
    finished := fun hd => ⟨(h.finished hd).1, rfl⟩ }

/-- The leaf step in each mode (R171, R201 to R203). -/
theorem emit_keeps_blockInv (hp : s.phase = .bodyDescend) {sym : Byte} {u : State} (hu : emit sym s = .next u) :
    BlockInv (toPhase .bodyCheck u) := by
  rcases emit_next hu with ⟨hm, rfl⟩ | ⟨hm, -, rfl⟩ | ⟨-, -, rfl⟩
  · exact putByte_keeps_blockInv h hp ((h.body (congrArg inBody hp)).byteMode hm) _
  · exact holdNibble_keeps_blockInv h hp hm _
  · exact putByte_keeps_blockInv (releaseNibble_keeps_blockInv h) hp rfl _

/-- A window inside IN moves the cursor by 4 (R199, R30). -/
theorem advanceBody_keeps_blockInv (hp : s.phase = .bodyDescend) (hin : s.bodyCur + 4 ≤ s.inLen) :
    BlockInv (advanceBody s) := by
  have hbody := h.body (congrArg inBody hp)
  have hlen : s.inLen ≤ 2 ^ s.cfg.inAddrW := h.lenFits (.inl (congrArg busy hp))
  have hwide : 2 ^ s.cfg.inAddrW < 2 ^ bodyCurWidth s.cfg :=
    Nat.pow_lt_pow_right Nat.one_lt_two (lt_of_lt_of_le (Nat.lt_succ_self _) (le_max_left _ _))
  obtain ⟨refills, hcur⟩ := hbody.cursorAligned
  exact { h with
    registers := { h.registers with
      bodyCurWidth := lt_of_le_of_lt (le_trans hin hlen) hwide }
    body := fun _ =>
      { hbody with
        cursorAligned := ⟨refills + 1, by rw [advanceBody_bodyCur, hcur, advanceBody_treeEnd]; ring⟩
        cursorInside := .inr hin } }

theorem refill_keeps_blockInv (hp : s.phase = .bodyDescend) (hw : s.pend.w = 0) :
    BlockInv (refill (fun win t => setPend (bvConcat t.pend win) t) s) := by
  have hempty : s.pend = BitValue.empty := by
    have hok : s.pend.v < 2 ^ s.pend.w := h.registers.pendOk
    rw [hw] at hok
    cases hpend : s.pend with
    | mk v w => simp_all
  rcases refill_cases (fun win t => setPend (bvConcat t.pend win) t) s with ⟨-, e⟩ | ⟨hin, e⟩ <;> rw [e]
  · exact raise_keeps_blockInv h _ _
  · have hcat : bvConcat (advanceBody s).pend (refillBits s) = refillBits s := by
      rw [advanceBody_pend, hempty, bvConcat_empty_left]
    rw [hcat]
    exact noteRead_keeps_blockInv
      (setPend_keeps_blockInv (advanceBody_keeps_blockInv h hp hin) le_rfl (bvMake_ok _ _))

/-- A branch moves from a node of the trie to its child, one bit further down the path (R173). -/
theorem branch_keeps_blockInv (hp : s.phase = .bodyDescend) (b : Bool) : BlockInv (branch b s) := by
  have hpend : BlockInv (setPend (bvDropMsb s.pend) s) :=
    setPend_keeps_blockInv h (le_trans (Nat.sub_le _ _) h.registers.pendWidth) (bvDropMsb_ok _)
  obtain ⟨hlt, path, hpath⟩ := h.descending hp
  rcases branch_cases b s with ⟨-, e⟩ | ⟨hc, e⟩ <;> rw [e]
  · exact raise_keeps_blockInv hpend _ _
  · exact { hpend with
      registers := { hpend.registers with nodePresent := hc }
      body := fun hb => { hpend.body hb with }
      descending := fun _ => ⟨hlt, path ++ [b], by
        show follow s.root (path ++ [b]) = childOf s.node b
        rw [follow_append, hpath, follow_singleton]⟩ }

theorem exec_own_keeps_blockInv {i : Instr} {t : State} (ho : ownStep s = some i) (he : exec i s = .next t) :
    BlockInv t := by
  rcases ownStep_cases ho with ⟨hp, rfl⟩ | ⟨hp, rfl⟩ | ⟨hp, rfl⟩ | ⟨hp, -, rfl⟩ |
    ⟨hp, ⟨c0, c1, hn⟩, hw, rfl⟩ | ⟨hp, ⟨c0, c1, hn⟩, hw, rfl⟩
  · cases (exec_sdReadheader hp).symm.trans he
    exact readHeader_keeps_blockInv h hp
  · cases (exec_sdReadtree hp).symm.trans he
    exact readTree_keeps_blockInv h hp
  · cases (exec_sdCheck hp).symm.trans he
    exact checkDone_keeps_blockInv h hp
  · obtain ⟨sym, u, -, -, hu, rfl⟩ := execDescLeaf_next he
    exact emit_keeps_blockInv h hp hu
  · cases (exec_descRefill hp hn hw).symm.trans he
    exact refill_keeps_blockInv h hp hw
  · cases (exec_descBranch hp hn hw).symm.trans he
    exact branch_keeps_blockInv h hp _

/-- A start is taken outside a call and ignored during one (R191). -/
theorem sdStart_keeps_blockInv {len : Nat} {t : State} (he : exec (.sdStart len) s = .next t) : BlockInv t := by
  change execSdStart len s = .next t at he
  unfold execSdStart at he
  split at he
  · cases he; exact h
  · split at he
    · cases he; exact beginCall_keeps_blockInv h ‹_›
    · cases he

end

/-- Settles O55, by the five things a step of a machine driven by its host can be. -/
theorem everyStepKeepsTheInvariant : Obligations.EveryStepKeepsTheInvariant := by
  unfold Obligations.EveryStepKeepsTheInvariant
  intro s t h hstep
  obtain ⟨rest, hreset | ⟨len, hstart⟩ | ⟨a, b, ha, hput⟩ | ⟨i, hown, hexec⟩ | ⟨-, -, hquiet⟩⟩ :=
    step_cases h.noIssue hstep
  all_goals have hk := keepInputs_keeps_blockInv h rest
  · exact hreset ▸ resetBlock_keeps_blockInv hk
  · exact sdStart_keeps_blockInv hk hstart
  · exact hput ▸ hostPutIn_keeps_blockInv hk b ha
  · exact exec_own_keeps_blockInv hk hown hexec
  · exact hquiet ▸ hk

end Sys2Proof.Machine
end

section
/-! SUPPORT. The reset state, the host's reads in DONE, the host's inputs, and the writers of each register. -/

namespace Sys2Proof.Machine

/-! ### Reset and the end of a call -/

/-- Settles O56: in IDLE the invariant asks only for the spaces and the registers. -/
theorem theInvariantHoldsAtReset : Obligations.TheInvariantHoldsAtReset :=
  BaseInv.blockInv
    { cfgOk := by decide
      inWf := rfl
      outWf := rfl
      inInside := nofun
      outInside := nofun
      noIssue := rfl
      registers :=
        { inLenWidth := Nat.two_pow_pos _
          bodyCurWidth := Nat.two_pow_pos _
          pendWidth := Nat.zero_le _
          pendOk := Nat.one_pos
          rootPresent := nofun
          nodePresent := nofun } }
    rfl nofun

/-- A read of the result gives the byte that OUT lists there (R62, R64). -/
theorem hostReadOut_of_listed {s : State} {a : Nat} {b : Byte} (hp : s.phase = .done)
    (ha : a < s.declLen.toNat) (hb : memRead s.out a = some b) (k : Nat) : hostReadOut k s a = b := by
  rw [hostReadOut, if_pos ⟨hp, ha⟩, hb, Option.getD_some]

/-- Settles O54: in DONE every byte below `declLen` has been emitted, so OUT lists it. -/
theorem hostReadsTheResultInDone : Obligations.HostReadsTheResultInDone := by
  unfold Obligations.HostReadsTheResultInDone
  intro s h hp
  refine ⟨if_pos hp, fun a ha => ?_⟩
  have hall : s.emitted = s.declLen := (h.finished hp).1
  obtain ⟨b, hb⟩ := Option.isSome_iff_exists.1 ((h.body (congrArg inBody hp)).outWritten a (hall ▸ ha))
  exact ⟨b, hb, hostReadOut_of_listed hp ha hb⟩

/-! ### The host's inputs -/

/-- A quiet input leaves the block its enabled step. -/
theorem fetchInput_quiet {s : State} {i : Instr} (h : ownStep s = some i) : fetchInput .quiet s = .run i s := by
  simp only [fetchInput, fetchOwn, h]

/-- Settles O7: what `fetchInput` answers to each input. -/
theorem stepTakesTheHostsInput : Obligations.StepTakesTheHostsInput := by
  unfold Obligations.StepTakesTheHostsInput
  intro s e rest hi hin
  rw [step_of_input hi hin]
  refine ⟨?rst, ?start, ?write, ?noAddress, ?quiet⟩
  case rst => rintro rfl; rfl
  case start => rintro len rfl; rfl
  case write =>
    rintro a b rfl ha
    exact congrArg perform (if_pos ha)
  case noAddress =>
    rintro a b rfl ha
    exact congrArg perform (if_neg (not_lt.2 ha))
  case quiet =>
    rintro rfl i ho
    rw [fetchInput_quiet (s := keepInputs rest s) ho]
    rfl

/-! ### The writers of the registers -/

/-- Settles O51: of all updates only body init and the window's move change `bodyCur`. -/
theorem windowsAreFetchedOnlyOnDemand : Obligations.WindowsAreFetchedOnlyOnDemand := by
  unfold Obligations.WindowsAreFetchedOnlyOnDemand
  intro i s t h hreset hcur
  have refilled (hi : i = .descRefill ∨ i = .sdRefill) (hd : refillDue s = true) (hin : s.bodyCur + 4 ≤ s.inLen)
      (ht : t.bodyCur = s.bodyCur + 4) :
      (i = .descRefill ∨ i = .sdRefill) ∧ t.bodyCur = s.bodyCur + 4 ∧ s.bodyCur + 4 ≤ s.inLen ∧
        s.pend.w = 0 ∧ ∃ c0 c1, s.node = .internal c0 c1 := by
    obtain ⟨-, hnode, hw⟩ := (refillDue_iff s).1 hd
    exact ⟨hi, ht, hin, hw, hnode⟩
  apply exec_next_elim h
  case hr2 => rintro hi - hd hin rfl; exact .inr (refilled (.inl hi) hd hin (by simp))
  case hr3 => rintro hi - hd hin rfl; exact .inr (refilled (.inr hi) hd hin (by simp))
  case ht2 => rintro hi - rfl; exact .inl ⟨hi, by simp⟩
  case hz => exact fun hi => absurd hi hreset
  all_goals
    intros
    refine absurd ?_ hcur
    subst t
    simp

/-- Settles O50: each way an instruction can end, by the one update that tells it from the state before. -/
theorem eachRegisterHasOnlyItsWriters : Obligations.EachRegisterHasOnlyItsWriters := by
  unfold Obligations.EachRegisterHasOnlyItsWriters
  intro i s t h hreset
  apply exec_next_elim h
  -- rows that write no register of R22
  case hret | hfree | htd => rintro r rfl; simp
  case hs1 => rintro len - - rfl; simp
  -- errors, and what their rule writes before raising
  case hbad => rintro m - rfl; simp
  case hrh1 | hrh2 => rintro - rfl; simp
  case hrh3 => rintro m rfl rfl; simp
  case hb1 => rintro info (rfl | rfl | rfl) rfl <;> simp
  case hr1 => rintro - rfl; simp
  case ht1 => rintro - rfl; simp
  -- the header
  case hmode => rintro m (rfl | rfl | ⟨b, rfl⟩) rfl - <;> simp
  case hlen | hsel => rintro n rfl rfl -; simp
  case hrh4 => rintro m rfl rfl; simp
  -- body init, the check and the start
  case ht2 => rintro rfl - rfl; simp
  case hc1 | hc2 => rintro rfl - rfl; simp
  case hs2 => rintro len rfl - - rfl; simp
  -- the descent
  case hb2 => rintro n (rfl | rfl | rfl) - - rfl <;> simp
  case hr2 | hr3 => rintro rfl - - - rfl; simp
  -- emission
  case hl1 | hl2 | hl3 => rintro b rfl - rfl; simp
  case he1 | he2 => rintro b rfl - rfl; simp
  case he3 => rintro b c rfl - rfl; simp
  case hz => exact fun hi => absurd hi hreset

end Sys2Proof.Machine
end

section
/-! SUPPORT. Two blocks that start a call alike run alike: what a call leaves of the values before it (R20, R22,
R261). `SameCall` relates two states of such calls by the registers that the call has written by their phase. -/

namespace Sys2Proof.Machine

/-! ### What the two blocks share -/

/-- What a call finds and leaves unchanged: the parameters, a stable IN, its length, and no host's hand in it. -/
structure SameSetting (s s' : State) : Prop where
  undisturbed : Undisturbed s
  undisturbed' : Undisturbed s'
  stable : s.inStable = true
  stable' : s'.inStable = true
  cfg : s.cfg = s'.cfg
  inp : s.inp = s'.inp
  inLen : s.inLen = s'.inLen

/-- What body init and the steps after it write. A byte of OUT counts below `emitted`, and `nibHi` counts while it is
guarded by `nibFull` (R25). -/
structure SameBody (s s' : State) : Prop where
  root : s.root = s'.root
  pend : s.pend = s'.pend
  bodyCur : s.bodyCur = s'.bodyCur
  emitted : s.emitted = s'.emitted
  nibFull : s.nibFull = s'.nibFull
  nibHi : s.nibFull = true → s.nibHi = s'.nibHi
  out : ∀ a, a < s.emitted.toNat → memRead s.out a = memRead s'.out a

/-- Two states of a call that differ only in what the call has not written yet. -/
structure SameCall (s s' : State) : Prop extends SameSetting s s' where
  phase : s.phase = s'.phase
  header : pastHeader s.phase = true → s.mode = s'.mode ∧ s.declLen = s'.declLen ∧ s.treeEnd = s'.treeEnd
  body : inBody s.phase = true → SameBody s s'
  node : s.phase = .bodyDescend → s.node = s'.node
  err : s.phase = .failed → s.err = s'.err
  finished : s.phase = .done → s.emitted = s.declLen

/-- Two outcomes of one kind: next states in a relation, or the same fault or refusal. -/
inductive OutcomesAgree (R : State → State → Prop) : Outcome → Outcome → Prop where
  | next {t t' : State} (h : R t t') : OutcomesAgree R (.next t) (.next t')
  | fault (f : Fault) : OutcomesAgree R (.fault f) (.fault f)
  | refused (r : Refusal) : OutcomesAgree R (.refused r) (.refused r)

/-! ### What the block reads -/

section
variable {s s' : State}

theorem SameSetting.readIn_eq (h : SameSetting s s') : readIn s = readIn s' := by
  funext place a
  rw [readIn, readIn, if_pos h.stable, if_pos h.stable', h.inp]

theorem SameSetting.headerLength_eq (h : SameSetting s s') : headerLength s = headerLength s' := by
  rw [headerLength, headerLength, h.readIn_eq]

theorem SameSetting.decodeRoot_eq (h : SameSetting s s') (he : s.treeEnd = s'.treeEnd) :
    decodeRoot s = decodeRoot s' := by
  rw [decodeRoot, decodeRoot, effEnd, effEnd, h.readIn_eq, h.inLen, he]

theorem SameSetting.refillBits_eq (h : SameSetting s s') (hc : s.bodyCur = s'.bodyCur) :
    refillBits s = refillBits s' := by
  rw [refillBits, refillBits, windowAt, windowAt, h.readIn_eq, h.cfg, hc]

theorem SameSetting.wideFault_eq (h : SameSetting s s') (sym : Byte) : wideFault sym s = wideFault sym s' := by
  rw [wideFault, wideFault, h.cfg]

/-! ### Each update keeps the agreement -/

theorem SameSetting.sameCall_raise (h : SameSetting s s') (k : ErrKind) (info info' : ErrInfo) :
    SameCall (raise k info s) (raise k info' s') :=
  { h with
    phase := rfl
    header := nofun
    body := nofun
    node := nofun
    err := fun _ => rfl
    finished := nofun }

theorem SameCall.sameCall_noteRead (h : SameCall s s') : SameCall (noteRead s) (noteRead s') := by
  rw [noteRead_stable s h.stable, noteRead_stable s' h.stable']
  exact h

theorem SameSetting.sameSetting_setMode (h : SameSetting s s') (m : Mode) :
    SameSetting (setMode m s) (setMode m s') := { h with }

theorem SameSetting.sameSetting_setPend (h : SameSetting s s') (x : BitValue) :
    SameSetting (setPend x s) (setPend x s') := { h with }

/-- The fields of the header are read from IN into each register that the tree step uses (R192 to R194). -/
theorem SameSetting.sameCall_readFields (h : SameSetting s s') (hm : s.mode = s'.mode) :
    SameCall (readFields s) (readFields s') := by
  unfold readFields
  rw [← h.inLen, ← h.readIn_eq, ← h.headerLength_eq]
  by_cases h5 : s.inLen < 5
  · rw [if_pos h5, if_pos h5]
    exact h.sameCall_raise _ _ _
  · rw [if_neg h5, if_neg h5]
    exact { h with
      phase := rfl
      header := fun _ => ⟨hm, rfl, rfl⟩
      body := nofun
      node := nofun
      err := nofun
      finished := nofun }

theorem SameSetting.sameCall_readHeader (h : SameSetting s s') : SameCall (readHeader s) (readHeader s') := by
  unfold readHeader
  rw [← h.inLen, ← h.cfg, ← h.readIn_eq]
  by_cases h1 : s.inLen < 1
  · rw [if_pos h1, if_pos h1]
    exact h.sameCall_raise _ _ _
  · rw [if_neg h1, if_neg h1]
    cases magicMode s.cfg (readIn s [] 0) with
    | none => exact (h.sameCall_raise _ _ _).sameCall_noteRead
    | some m => exact ((h.sameSetting_setMode m).sameCall_readFields rfl).sameCall_noteRead

/-- Body init writes each register of the body but `nibHi`, which `nibFull` then guards (R196). -/
theorem SameCall.sameCall_bodyInit (h : SameCall s s') (hp : s.phase = .readTree) (r : Trie) :
    SameCall (toPhase .bodyCheck (bodyInit r s)) (toPhase .bodyCheck (bodyInit r s')) := by
  obtain ⟨hm, hd, he⟩ := h.header (congrArg pastHeader hp)
  exact { h.toSameSetting with
    phase := rfl
    header := fun _ => ⟨hm, hd, he⟩
    body := fun _ =>
      { root := rfl
        pend := rfl
        bodyCur := congrArg BitVec.toNat he
        emitted := rfl
        nibFull := rfl
        nibHi := nofun
        out := nofun }
    node := nofun
    err := nofun
    finished := nofun }

theorem SameCall.sameCall_readTree (h : SameCall s s') (hp : s.phase = .readTree) :
    SameCall (readTree s) (readTree s') := by
  obtain ⟨-, -, he⟩ := h.header (congrArg pastHeader hp)
  unfold readTree
  rw [← h.decodeRoot_eq he]
  cases decodeRoot s with
  | absent => exact (h.sameCall_raise _ _ _).sameCall_noteRead
  | leaf sym => exact (h.sameCall_bodyInit hp _).sameCall_noteRead
  | internal c0 c1 => exact (h.sameCall_bodyInit hp _).sameCall_noteRead

theorem SameCall.sameCall_checkDone (h : SameCall s s') (hp : s.phase = .bodyCheck) :
    SameCall (checkDone s) (checkDone s') := by
  have hhead := h.header (congrArg pastHeader hp)
  have hbody := h.body (congrArg inBody hp)
  unfold checkDone
  rw [← hbody.emitted, ← hbody.root, ← hhead.2.1]
  by_cases hd : s.emitted = s.declLen
  · rw [if_pos hd, if_pos hd]
    exact { h.toSameSetting with
      phase := rfl
      header := fun _ => hhead
      body := fun _ => { hbody with }
      node := nofun
      err := nofun
      finished := fun _ => hd }
  · rw [if_neg hd, if_neg hd]
    exact { h.toSameSetting with
      phase := rfl
      header := fun _ => hhead
      body := fun _ => { hbody with }
      node := fun _ => rfl
      err := nofun
      finished := nofun }

/-! ### The descent -/

theorem SameCall.sameCall_setPend (h : SameCall s s') (x : BitValue) : SameCall (setPend x s) (setPend x s') :=
  { h with body := fun hb => { h.body hb with pend := rfl } }

theorem SameCall.sameCall_setNode (h : SameCall s s') (n : Trie) : SameCall (setNode n s) (setNode n s') :=
  { h with
    body := fun hb => { h.body hb with }
    node := fun _ => rfl }

theorem SameCall.sameCall_advanceBody (h : SameCall s s') : SameCall (advanceBody s) (advanceBody s') :=
  { h with body := fun hb => { h.body hb with bodyCur := congrArg (· + 4) (h.body hb).bodyCur } }

theorem SameCall.sameCall_releaseNibble (h : SameCall s s') : SameCall (releaseNibble s) (releaseNibble s') :=
  { h with body := fun hb => { h.body hb with nibFull := rfl, nibHi := nofun } }

section
variable (h : SameCall s s') (hp : s.phase = .bodyDescend)
include h hp

theorem SameCall.sameCall_refill :
    SameCall (refill (fun win t => setPend (bvConcat t.pend win) t) s)
      (refill (fun win t => setPend (bvConcat t.pend win) t) s') := by
  have hbody := h.body (congrArg inBody hp)
  have hex : bodyExhausted s' = bodyExhausted s := by
    rw [bodyExhausted, bodyExhausted, h.inLen, hbody.bodyCur]
  unfold refill
  simp only [advanceBody_pend]
  rw [hex, ← h.refillBits_eq hbody.bodyCur, ← hbody.pend]
  cases bodyExhausted s with
  | true => exact h.sameCall_raise _ _ _
  | false => exact (h.sameCall_advanceBody.sameCall_setPend _).sameCall_noteRead

theorem SameCall.sameCall_branch (b : Bool) : SameCall (branch b s) (branch b s') := by
  have hpend := (h.body (congrArg inBody hp)).pend
  unfold branch
  rw [← h.node hp, ← hpend]
  cases childOf s.node b with
  | absent => exact (h.sameSetting_setPend _).sameCall_raise _ _ _
  | leaf sym => exact (h.sameCall_setPend (bvDropMsb s.pend)).sameCall_setNode (.leaf sym)
  | internal c0 c1 => exact (h.sameCall_setPend (bvDropMsb s.pend)).sameCall_setNode (.internal c0 c1)

/-- A byte written at the same `emitted` makes OUT agree one address further (R201, R203). -/
theorem SameCall.sameCall_putByte (b : Byte) :
    SameCall (toPhase .bodyCheck (putByte b s)) (toPhase .bodyCheck (putByte b s')) := by
  have hbody := h.body (congrArg inBody hp)
  exact { h.toSameSetting with
    phase := rfl
    header := fun _ => h.header (congrArg pastHeader hp)
    body := fun _ =>
      { hbody with
        emitted := congrArg (· + 1#24) hbody.emitted
        out := fun a ha => by
          have hle : a < s.emitted.toNat + 1 :=
            lt_of_lt_of_le (show a < (s.emitted + 1#24).toNat from ha) (Nat.mod_le _ _)
          show memRead (memWrite s.out s.emitted.toNat b) a = memRead (memWrite s'.out s'.emitted.toNat b) a
          rw [← hbody.emitted]
          by_cases hae : a = s.emitted.toNat
          · rw [hae, memRead_memWrite_same, memRead_memWrite_same]
          · rw [memRead_memWrite_other _ _ _ _ hae, memRead_memWrite_other _ _ _ _ hae]
            exact hbody.out a (by omega) }
    node := nofun
    err := nofun
    finished := nofun }

theorem SameCall.sameCall_holdNibble (sym : Byte) :
    SameCall (toPhase .bodyCheck (holdNibble sym s)) (toPhase .bodyCheck (holdNibble sym s')) :=
  { h.toSameSetting with
    phase := rfl
    header := fun _ => h.header (congrArg pastHeader hp)
    body := fun _ => { h.body (congrArg inBody hp) with nibFull := rfl, nibHi := fun _ => rfl }
    node := nofun
    err := nofun
    finished := nofun }

end

/-- Two leaf steps that emit one symbol emit it in the same way, or are both the model fault of R204. -/
theorem SameCall.emit_agree (h : SameCall s s') (hp : s.phase = .bodyDescend) (sym : Byte) :
    OutcomesAgree (fun u u' => SameCall (toPhase .bodyCheck u) (toPhase .bodyCheck u'))
      (emit sym s) (emit sym s') := by
  obtain ⟨hm, -, -⟩ := h.header (congrArg pastHeader hp)
  have hbody := h.body (congrArg inBody hp)
  unfold emit
  rw [← hm, ← hbody.nibFull]
  cases s.mode with
  | byte8 => exact .next (h.sameCall_putByte hp sym)
  | nibble4 =>
    cases hf : s.nibFull with
    | false =>
      simp only [emit4hi]
      rw [← h.wideFault_eq]
      cases wideFault sym s with
      | true => exact .fault _
      | false => exact .next (h.sameCall_holdNibble hp sym)
    | true =>
      simp only [emit4lo]
      rw [← h.wideFault_eq, ← hbody.nibHi hf]
      cases wideFault sym s with
      | true => exact .fault _
      | false => exact .next (h.sameCall_releaseNibble.sameCall_putByte hp _)

theorem SameCall.descLeaf_agree (h : SameCall s s') (hp : s.phase = .bodyDescend) {sym : Byte}
    (hn : s.node = .leaf sym) : OutcomesAgree SameCall (exec .descLeaf s) (exec .descLeaf s') := by
  have hn' : s'.node = .leaf sym := h.node hp ▸ hn
  have hp' : s'.phase = .bodyDescend := h.phase ▸ hp
  simp only [exec, execDescLeaf, hn, hn', leafStep, hp, hp', and_self, decide_true, if_true]
  have hemit := h.emit_agree hp sym
  generalize emit sym s = o, emit sym s' = o' at hemit ⊢
  cases hemit with
  | next hu => exact .next hu
  | fault f => exact .fault f
  | refused r => exact .refused r

/-! ### Steps and runs -/

theorem SameCall.ownStep_eq (h : SameCall s s') : ownStep s = ownStep s' := by
  unfold ownStep
  rw [← h.phase]
  cases hp : s.phase with
  | bodyDescend => rw [← h.node hp, ← (h.body (congrArg inBody hp)).pend]
  | _ => rfl

theorem SameCall.own_agree (h : SameCall s s') {i : Instr} (ho : ownStep s = some i) :
    OutcomesAgree SameCall (exec i s) (exec i s') := by
  have hphase {p : Phase} (hp : s.phase = p) : s'.phase = p := h.phase ▸ hp
  rcases ownStep_cases ho with ⟨hp, rfl⟩ | ⟨hp, rfl⟩ | ⟨hp, rfl⟩ | ⟨hp, ⟨sym, hn⟩, rfl⟩ |
    ⟨hp, ⟨c0, c1, hn⟩, hw, rfl⟩ | ⟨hp, ⟨c0, c1, hn⟩, hw, rfl⟩
  · rw [exec_sdReadheader hp, exec_sdReadheader (hphase hp)]
    exact .next h.sameCall_readHeader
  · rw [exec_sdReadtree hp, exec_sdReadtree (hphase hp)]
    exact .next (h.sameCall_readTree hp)
  · rw [exec_sdCheck hp, exec_sdCheck (hphase hp)]
    exact .next (h.sameCall_checkDone hp)
  · exact h.descLeaf_agree hp hn
  all_goals
    have hpend := (h.body (congrArg inBody hp)).pend
    have hn' : s'.node = .internal c0 c1 := h.node hp ▸ hn
  · rw [exec_descRefill hp hn hw, exec_descRefill (hphase hp) hn' (hpend ▸ hw)]
    exact .next (h.sameCall_refill hp)
  · rw [exec_descBranch hp hn hw, exec_descBranch (hphase hp) hn' (hpend ▸ hw), ← hpend]
    exact .next (h.sameCall_branch hp _)

theorem SameCall.step_agree (h : SameCall s s') : OutcomesAgree SameCall (step s) (step s') := by
  rw [step_of_own h.undisturbed.1 h.undisturbed.2, step_of_own h.undisturbed'.1 h.undisturbed'.2, fetchOwn, fetchOwn,
    ← h.ownStep_eq, ← h.phase]
  cases ho : ownStep s with
  | some i => exact h.own_agree ho
  | none =>
    cases busy s.phase with
    | true => exact .refused _
    | false => exact .next h

theorem SameCall.run_agree (h : SameCall s s') (n : Nat) : OutcomesAgree SameCall (run n s) (run n s') := by
  induction n generalizing s s' with
  | zero => exact .next h
  | succ n ih =>
    simp only [run]
    have hstep := h.step_agree
    generalize step s = o, step s' = o' at hstep ⊢
    cases hstep with
    | next ht => exact ih ht
    | fault f => exact .fault f
    | refused r => exact .refused r

/-! ### What the host sees -/

theorem SameCall.statusCode_eq (h : SameCall s s') : statusCode s = statusCode s' := by
  unfold statusCode
  rw [← h.phase]
  cases hp : s.phase with
  | failed => rw [h.err hp]
  | _ => rfl

theorem SameCall.outLen_eq (h : SameCall s s') : outLen s = outLen s' := by
  unfold outLen
  rw [← h.phase]
  by_cases hp : s.phase = .done
  · rw [(h.header (congrArg pastHeader hp)).2.1]
  · rw [if_neg hp, if_neg hp]

/-- In DONE every byte of the result lies below `emitted` (R205), where OUT agrees. -/
theorem SameCall.hostReadOut_eq (h : SameCall s s') (k a : Nat) : hostReadOut k s a = hostReadOut k s' a := by
  unfold hostReadOut
  rw [← h.phase]
  by_cases hp : s.phase = .done
  · rw [← (h.header (congrArg pastHeader hp)).2.1]
    by_cases ha : a < s.declLen.toNat
    · rw [(h.body (congrArg inBody hp)).out a (h.finished hp ▸ ha)]
    · rw [if_neg fun hc => ha hc.2, if_neg fun hc => ha hc.2]
  · rw [if_neg fun hc => hp hc.1, if_neg fun hc => hp hc.1]

end

/-- Settles O59: in READ_HEADER two blocks need agree in nothing that a call writes, and the steps keep `SameCall`. -/
theorem valuesBeforeACallAreNotObservable : Obligations.ValuesBeforeACallAreNotObservable := by
  unfold Obligations.ValuesBeforeACallAreNotObservable
  intro s s' hu hu' hp hp' hcfg hinp hlen hst hst' n
  have hsame : SameCall s s' :=
    { undisturbed := hu, undisturbed' := hu', stable := hst, stable' := hst', cfg := hcfg, inp := hinp, inLen := hlen
      phase := hp.trans hp'.symm
      header := by simp [hp, pastHeader]
      body := by simp [hp, inBody]
      node := by simp [hp]
      err := by simp [hp]
      finished := by simp [hp] }
  have hrun := hsame.run_agree n
  generalize run n s = o, run n s' = o' at hrun ⊢
  cases hrun with
  | next ht => exact ⟨ht.statusCode_eq, ht.outLen_eq, ht.hostReadOut_eq⟩
  | fault f => rfl
  | refused r => rfl

end Sys2Proof.Machine
end

section
/-! SUPPORT. The spaces IN and OUT: a write of a space, who writes which space and where, and what a write of IN
during a call does to the block's reads. -/

namespace Sys2Proof.Machine

/-! ### Spaces in canonical form -/

/-- A read after a write, at every address. -/
theorem memRead_memWrite (m : Mem) (a : Nat) (b : Byte) (k : Nat) :
    memRead (memWrite m a b) k = if k = a then some b else memRead m k := by
  by_cases h : k = a
  · rw [if_pos h, h, memRead_memWrite_same]
  · rw [if_neg h, memRead_memWrite_other _ _ _ _ h]

theorem memRead_cons_same (c : Host.Cell) (m : Mem) : memRead (c :: m) c.1 = some c.2 := if_pos rfl

theorem memRead_cons_other {c : Host.Cell} {k : Nat} (h : k ≠ c.1) (m : Mem) :
    memRead (c :: m) k = memRead m k := if_neg h.symm

/-- In canonical form every address listed behind an entry lies above it. -/
theorem lt_of_memRead_tail {c : Host.Cell} {m : Mem} {k : Nat} {b : Byte} (h : memWf (c :: m) = true)
    (hk : memRead m k = some b) : c.1 < k := by
  induction m generalizing c with
  | nil => simp [memRead] at hk
  | cons d m ih =>
    obtain ⟨hcd, hd⟩ := (memWf_cons c (d :: m)).1 h
    have hlt : c.1 < d.1 := hcd d rfl
    by_cases hkd : k = d.1
    · exact hkd ▸ hlt
    · exact hlt.trans (ih hd (memRead_cons_other hkd m ▸ hk))

/-- In canonical form the first entry has the least address. -/
theorem head_le_of_memRead {c : Host.Cell} {m : Mem} {k : Nat} {b : Byte} (h : memWf (c :: m) = true)
    (hk : memRead (c :: m) k = some b) : c.1 ≤ k := by
  by_cases hkc : k = c.1
  · exact hkc.ge
  · exact (lt_of_memRead_tail h (memRead_cons_other hkc m ▸ hk)).le

/-- The first entry of a canonical space is not listed again behind it. -/
theorem memRead_tail_head {c : Host.Cell} {m : Mem} (h : memWf (c :: m) = true) : memRead m c.1 = none :=
  Option.eq_none_iff_forall_ne_some.2 fun _ hb => lt_irrefl _ (lt_of_memRead_tail h hb)

/-- A canonical space is determined by its reads. -/
theorem mem_ext {m m' : Mem} (h : memWf m = true) (h' : memWf m' = true)
    (hread : ∀ k, memRead m k = memRead m' k) : m = m' := by
  induction m generalizing m' with
  | nil =>
    cases m' with
    | nil => rfl
    | cons d m' => exact nomatch (hread d.1).trans (memRead_cons_same d m')
  | cons c m ih =>
    cases m' with
    | nil => exact nomatch (memRead_cons_same c m).symm.trans (hread c.1)
    | cons d m' =>
      have haddr : c.1 = d.1 :=
        le_antisymm (head_le_of_memRead h ((hread d.1).trans (memRead_cons_same d m')))
          (head_le_of_memRead h' ((hread c.1).symm.trans (memRead_cons_same c m)))
      have hcell : c = d := by
        have hbyte := hread c.1
        rw [memRead_cons_same, haddr, memRead_cons_same] at hbyte
        exact Prod.ext haddr (Option.some.inj hbyte)
      subst hcell
      have htail (k : Nat) : memRead m k = memRead m' k := by
        by_cases hk : k = c.1
        · rw [hk, memRead_tail_head h, memRead_tail_head h']
        · have hread' := hread k
          rwa [memRead_cons_other hk, memRead_cons_other hk] at hread'
      rw [ih ((memWf_cons c m).1 h).2 ((memWf_cons c m').1 h').2 htail]

/-- Settles O52, by the laws of a write and by `mem_ext`. -/
theorem writesKeepTheSpacesCanonical : Obligations.WritesKeepTheSpacesCanonical := by
  unfold Obligations.WritesKeepTheSpacesCanonical
  intro m m' a b h h'
  exact ⟨memWrite_wf m a b h, memRead_memWrite m a b, mem_ext h h'⟩

/-! ### The writers of OUT -/

/-- Of all updates but reset's only `putByte` writes OUT: one byte, at `emitted` (R201, R203). -/
theorem exec_out {i : Instr} {s t : State} (h : exec i s = .next t) (hreset : i ≠ .sdReset) :
    t.out = s.out ∨ ∃ b, t.out = memWrite s.out s.emitted.toNat b ∧ t.emitted = s.emitted + 1#24 := by
  apply exec_next_elim h
  case hl1 | hl3 => rintro b - - rfl; exact .inr ⟨b, rfl, rfl⟩
  case he1 => rintro b - - rfl; exact .inr ⟨b, rfl, rfl⟩
  case he3 => rintro - b - - rfl; exact .inr ⟨b, rfl, rfl⟩
  case hz => exact fun hi => absurd hi hreset
  all_goals
    intros
    refine .inl ?_
    subst t
    simp

/-- Settles O49, by `exec_out` and the laws of a write. -/
theorem outIsWrittenOnlyAtEmitted : Obligations.OutIsWrittenOnlyAtEmitted := by
  unfold Obligations.OutIsWrittenOnlyAtEmitted
  intro i s t h hreset
  rcases exec_out h hreset with hout | ⟨b, hout, hemitted⟩ <;> rw [hout]
  · exact ⟨fun _ _ => rfl, .inl rfl⟩
  · exact ⟨fun a ha => memRead_memWrite_other _ _ _ _ ha,
      .inr ⟨hemitted, b, memRead_memWrite_same _ _ _, rfl⟩⟩

/-! ### The writers of IN -/

/-- What was put straight to a unit runs as an instruction, decoded first where it is bytes. -/
theorem fetchIssue_next {q : Issue} {s t : State} (h : perform (fetchIssue q s) = .next t) :
    ∃ i, exec i s = .next t := by
  cases q with
  | op i => exact ⟨i, h⟩
  | word slot bytes =>
    unfold fetchIssue at h
    cases hd : decode s.cfg slot bytes with
    | ok i => simp only [hd] at h; exact ⟨i, h⟩
    | error e => simp only [hd] at h; cases h

/-- A step of any machine is the host's write of IN, which is then the input it takes, or it runs at most one
instruction in the state less what it took. -/
theorem step_next {s t : State} (h : step s = .next t) :
    (∃ a b rest, s.issue = none ∧ s.inputs = .putIn a b :: rest ∧ t = hostPutIn a b (keepInputs rest s)) ∨
    ∃ rest, t = keepInputs rest (takeIssue s) ∨ ∃ i, exec i (keepInputs rest (takeIssue s)) = .next t := by
  have own {u : State} (hu : perform (fetchOwn u) = .next t) : t = u ∨ ∃ i, exec i u = .next t :=
    (fetchOwn_next hu).elim (fun ⟨i, _, he⟩ => .inr ⟨i, he⟩) fun ⟨_, _, ht⟩ => .inl ht
  cases hi : s.issue with
  | some q =>
    rw [step_of_issue hi] at h
    exact .inr ⟨s.inputs, .inr (fetchIssue_next h)⟩
  | none =>
    have htake : takeIssue s = s := by rw [takeIssue, ← hi]
    rw [htake]
    cases hin : s.inputs with
    | nil =>
      have hkeep : keepInputs [] s = s := by rw [keepInputs, ← hin]
      rw [step_of_own hi hin] at h
      exact .inr ⟨[], hkeep.symm ▸ own h⟩
    | cons e rest =>
      rw [step_of_input hi hin] at h
      cases e with
      | quiet => exact .inr ⟨rest, own h⟩
      | rst => exact .inr ⟨rest, .inr ⟨.sdReset, h⟩⟩
      | start len => exact .inr ⟨rest, .inr ⟨.sdStart len, h⟩⟩
      | putIn a b =>
        refine .inl ⟨a, b, rest, rfl, rfl, ?_⟩
        by_cases ha : a < 2 ^ s.cfg.inAddrW
        · exact (Host.Outcome.next.inj ((congrArg perform (if_pos ha)).symm.trans h)).symm
        · exact nomatch (congrArg perform (if_neg ha)).symm.trans h

/-- No update that an instruction makes writes the parameters or IN (R50, R264). -/
theorem exec_keeps_cfg_inp {i : Instr} {s t : State} (h : exec i s = .next t) : t.cfg = s.cfg ∧ t.inp = s.inp := by
  apply exec_next_elim h
  all_goals
    intros
    subst t
    simp

/-- Settles O48, by what a step runs. -/
theorem theBlockNeverWritesIn : Obligations.TheBlockNeverWritesIn := by
  unfold Obligations.TheBlockNeverWritesIn
  intro s t h
  rcases step_next h with ⟨a, b, rest, hi, hin, rfl⟩ | ⟨rest, rfl | ⟨i, he⟩⟩
  · exact ⟨rfl, .inr ⟨a, b, rest, hi, hin, rfl⟩⟩
  · exact ⟨rfl, .inl rfl⟩
  · obtain ⟨hcfg, hinp⟩ := exec_keeps_cfg_inp he
    exact ⟨hcfg, .inl hinp⟩

/-! ### Reads of IN after the host changed it -/

theorem readIn_of_stable {s : State} (h : s.inStable = true) (place : List Bool) (k : Nat) :
    readIn s place k = (memRead s.inp k).getD (Config.inContent k) := if_pos h

theorem readIn_of_not_stable {s : State} (h : s.inStable = false) (place : List Bool) (k : Nat) :
    readIn s place k = Config.freeIn s.draws place k := if_neg (by simp [h])

/-- A write of IN outside a call changes the read of its own address only. -/
theorem readIn_hostPutIn {s : State} (hb : busy s.phase = false) (hs : s.inStable = true) (a : Nat) (b : Byte)
    (place : List Bool) (k : Nat) :
    readIn (hostPutIn a b s) place k = if k = a then b else readIn s place k := by
  rw [readIn_of_stable (by simp [hb, hs]), readIn_of_stable hs, hostPutIn_inp, memRead_memWrite]
  by_cases hk : k = a
  · rw [if_pos hk, if_pos hk, Option.getD_some]
  · rw [if_neg hk, if_neg hk]

/-- Only the start of a call writes `inStable`. -/
theorem exec_inStable {i : Instr} {s t : State} (h : exec i s = .next t) :
    t.inStable = s.inStable ∨ (busy s.phase = false ∧ t.phase = .readHeader) := by
  apply exec_next_elim h
  case hs2 => rintro len - hb - rfl; exact .inr ⟨hb, rfl⟩
  all_goals
    intros
    refine .inl ?_
    subst t
    simp

/-- Settles O53: the write by `hostPutIn`, the way back by `exec_inStable`, the draws by `readIn`. -/
theorem hostWriteDuringACallMakesReadsDraws : Obligations.HostWriteDuringACallMakesReadsDraws := by
  unfold Obligations.HostWriteDuringACallMakesReadsDraws
  refine ⟨?write, ?wayBack, fun s place k hs => readIn_of_not_stable hs place k⟩
  case write =>
    intro s a b rest hi hin ha
    obtain ⟨-, -, hput, -, -⟩ := stepTakesTheHostsInput s _ rest hi hin
    exact ⟨_, hput a b rfl ha, memRead_memWrite_same _ _ _, fun hb => by simp [hb],
      fun hb hs => readIn_hostPutIn (s := keepInputs rest s) hb hs a b⟩
  case wayBack =>
    intro s t hs h ht
    rcases step_next h with ⟨a, b, rest, -, -, rfl⟩ | ⟨rest, rfl | ⟨i, he⟩⟩
    · simp [hs] at ht
    · simp [hs] at ht
    · exact (exec_inStable he).resolve_left fun hkeep => by simp [hkeep, hs] at ht

end Sys2Proof.Machine
end

section
/-! SUPPORT. The block reads IN below `inLen` only (R50, R149): a step does the same, but for IN itself, when IN is
replaced by a space that agrees with it there. -/

namespace Sys2Proof.Machine

/-- IN replaced by another content. -/
def replaceIn (inp' : Mem) (s : State) : State := { s with inp := inp' }

@[simp] theorem replaceIn_cfg (inp' : Mem) (s : State) : (replaceIn inp' s).cfg = s.cfg := rfl
@[simp] theorem replaceIn_inLen (inp' : Mem) (s : State) : (replaceIn inp' s).inLen = s.inLen := rfl
@[simp] theorem replaceIn_mode (inp' : Mem) (s : State) : (replaceIn inp' s).mode = s.mode := rfl
@[simp] theorem replaceIn_node (inp' : Mem) (s : State) : (replaceIn inp' s).node = s.node := rfl
@[simp] theorem replaceIn_bodyCur (inp' : Mem) (s : State) : (replaceIn inp' s).bodyCur = s.bodyCur := rfl
@[simp] theorem replaceIn_nibFull (inp' : Mem) (s : State) : (replaceIn inp' s).nibFull = s.nibFull := rfl
@[simp] theorem replaceIn_inp (inp' : Mem) (s : State) : (replaceIn inp' s).inp = inp' := rfl

/-- A stable IN and another content of it that agrees below `inLen`. -/
structure AgreesBelow (inp' : Mem) (s : State) : Prop where
  stable : s.inStable = true
  read : ∀ a, a < s.inLen → memRead s.inp a = memRead inp' a

/-- Two outcomes that differ only in the content of IN. -/
abbrev SameButIn (inp' : Mem) : Outcome → Outcome → Prop := OutcomesAgree fun t t' => t' = replaceIn inp' t

/-- A decoded trie depends on the bytes below the region's end only (R149). -/
theorem decodeNodeFuel_congr {rd rd' : List Bool → Nat → Byte} {regionEnd : Nat}
    (h : ∀ place a, a < regionEnd → rd place a = rd' place a) (fuel : Nat) (place : List Bool) (a : Nat)
    (isLeaf : Bool) :
    decodeNodeFuel rd fuel place a regionEnd isLeaf = decodeNodeFuel rd' fuel place a regionEnd isLeaf := by
  induction fuel generalizing place a isLeaf with
  | zero => rfl
  | succ fuel ih =>
    rw [decodeNodeFuel, decodeNodeFuel]
    by_cases ha : regionEnd ≤ a
    · rw [if_pos ha, if_pos ha]
    · rw [if_neg ha, if_neg ha, h place a (not_le.1 ha), ih, ih]

/-- Closing a step that read IN does not look at IN. -/
theorem noteRead_replaceIn {inp' : Mem} {t u : State} (h : u = replaceIn inp' t) :
    noteRead u = replaceIn inp' (noteRead t) := by
  rw [h, noteRead_eq, noteRead_eq]
  rfl

/-! ### What the block reads -/

section
variable {inp' : Mem} {s : State} (h : AgreesBelow inp' s)
include h

theorem AgreesBelow.readIn_eq (place : List Bool) {a : Nat} (ha : a < s.inLen) :
    readIn (replaceIn inp' s) place a = readIn s place a := by
  rw [readIn_of_stable h.stable, readIn_of_stable (s := replaceIn inp' s) h.stable, replaceIn_inp, h.read a ha]

theorem AgreesBelow.headerLength_eq (h5 : 5 ≤ s.inLen) : headerLength (replaceIn inp' s) = headerLength s := by
  rw [headerLength, headerLength, h.readIn_eq _ (by omega), h.readIn_eq _ (by omega), h.readIn_eq _ (by omega)]

/-- The region the tree is read from ends at `inLen` or before (R149). -/
theorem AgreesBelow.decodeRoot_eq : decodeRoot (replaceIn inp' s) = decodeRoot s :=
  decodeNodeFuel_congr (fun place _ ha => h.readIn_eq place (lt_of_lt_of_le ha (min_le_right _ _))) _ _ _ _

/-- A refill reads a window that ends inside IN (R199). -/
theorem AgreesBelow.refillBits_eq (hin : s.bodyCur + 4 ≤ s.inLen) :
    refillBits (replaceIn inp' s) = refillBits s := by
  rw [refillBits, refillBits, windowAt, windowAt, replaceIn_cfg, replaceIn_bodyCur, h.readIn_eq _ (by omega),
    h.readIn_eq _ (by omega), h.readIn_eq _ (by omega), h.readIn_eq _ (by omega)]

/-! ### Each step of a call -/

theorem AgreesBelow.agreesBelow_setMode (m : Mode) : AgreesBelow inp' (setMode m s) := { h with }

/-- The header's fields lie below address 5, and are read only where IN holds them (R192). -/
theorem AgreesBelow.readFields_replaceIn : readFields (replaceIn inp' s) = replaceIn inp' (readFields s) := by
  unfold readFields
  rw [replaceIn_inLen]
  by_cases h5 : s.inLen < 5
  · rw [if_pos h5, if_pos h5]
    rfl
  · rw [if_neg h5, if_neg h5, h.headerLength_eq (by omega), h.readIn_eq _ (by omega)]
    rfl

theorem AgreesBelow.readHeader_replaceIn : readHeader (replaceIn inp' s) = replaceIn inp' (readHeader s) := by
  unfold readHeader
  rw [replaceIn_inLen, replaceIn_cfg]
  by_cases h1 : s.inLen < 1
  · rw [if_pos h1, if_pos h1]
    rfl
  · rw [if_neg h1, if_neg h1, h.readIn_eq _ (by omega)]
    cases magicMode s.cfg (readIn s [] 0) with
    | none => exact noteRead_replaceIn rfl
    | some m => exact noteRead_replaceIn (h.agreesBelow_setMode m).readFields_replaceIn

theorem AgreesBelow.readTree_replaceIn : readTree (replaceIn inp' s) = replaceIn inp' (readTree s) := by
  unfold readTree
  rw [h.decodeRoot_eq]
  cases decodeRoot s with
  | absent => exact noteRead_replaceIn rfl
  | leaf sym => exact noteRead_replaceIn rfl
  | internal c0 c1 => exact noteRead_replaceIn rfl

theorem AgreesBelow.descRefill_replaceIn :
    refill (fun win t => setPend (bvConcat t.pend win) t) (replaceIn inp' s) =
      replaceIn inp' (refill (fun win t => setPend (bvConcat t.pend win) t) s) := by
  rcases refill_cases (fun win t => setPend (bvConcat t.pend win) t) s with ⟨hout, e⟩ | ⟨hin, e⟩ <;> rw [e]
  · exact if_pos (decide_eq_true hout)
  · have hex : ¬ bodyExhausted (replaceIn inp' s) = true := by
      rw [bodyExhausted, decide_eq_true_iff]
      exact not_lt.2 hin
    rw [refill, if_neg hex, h.refillBits_eq hin]
    exact noteRead_replaceIn rfl

end

theorem checkDone_replaceIn (inp' : Mem) (s : State) :
    checkDone (replaceIn inp' s) = replaceIn inp' (checkDone s) := by
  rcases checkDone_cases s with ⟨hd, e⟩ | ⟨hd, e⟩ <;> rw [e]
  · exact if_pos hd
  · exact if_neg hd

theorem branch_replaceIn (b : Bool) (inp' : Mem) (s : State) :
    branch b (replaceIn inp' s) = replaceIn inp' (branch b s) := by
  unfold branch
  rw [replaceIn_node]
  cases childOf s.node b <;> rfl

/-- The shape of both 4-bit emissions: a model fault or a next state (R204). -/
theorem sameButIn_faultOrNext {inp' : Mem} {wide : Bool} {f : Fault} {t u : State} (h : u = replaceIn inp' t) :
    SameButIn inp' (if wide then .fault f else .next t) (if wide then .fault f else .next u) := by
  cases wide with
  | true => exact .fault f
  | false => exact .next h

/-- Emission reads no IN (R201 to R203). -/
theorem emit_replaceIn (sym : Byte) (inp' : Mem) (s : State) :
    SameButIn inp' (emit sym s) (emit sym (replaceIn inp' s)) := by
  unfold emit
  rw [replaceIn_mode, replaceIn_nibFull]
  cases s.mode with
  | byte8 => exact .next rfl
  | nibble4 =>
    cases s.nibFull with
    | false => exact sameButIn_faultOrNext rfl
    | true => exact sameButIn_faultOrNext rfl

theorem execDescLeaf_replaceIn (inp' : Mem) (s : State) :
    SameButIn inp' (execDescLeaf s) (execDescLeaf (replaceIn inp' s)) := by
  unfold execDescLeaf
  rw [replaceIn_node]
  cases s.node with
  | absent => exact .refused _
  | internal c0 c1 => exact .refused _
  | leaf sym =>
    have hleaf : leafStep sym (replaceIn inp' s) = leafStep sym s := rfl
    have hemit := emit_replaceIn sym inp' s
    dsimp only
    rw [hleaf]
    generalize emit sym s = o, emit sym (replaceIn inp' s) = o' at hemit ⊢
    cases leafStep sym s with
    | false => exact .refused _
    | true =>
      cases hemit with
      | next hu => exact .next (hu ▸ rfl)
      | fault f => exact .fault f
      | refused r => exact .refused r

/-! ### The step -/

/-- The enabled step reads IN in the header, in the tree region and at a refill only (R190). -/
theorem AgreesBelow.own_agree {inp' : Mem} {s : State} (h : AgreesBelow inp' s) {i : Instr}
    (ho : ownStep s = some i) : SameButIn inp' (exec i s) (exec i (replaceIn inp' s)) := by
  rcases ownStep_cases ho with ⟨hp, rfl⟩ | ⟨hp, rfl⟩ | ⟨hp, rfl⟩ | ⟨-, -, rfl⟩ |
    ⟨hp, ⟨c0, c1, hn⟩, hw, rfl⟩ | ⟨hp, ⟨c0, c1, hn⟩, hw, rfl⟩
  · rw [exec_sdReadheader hp, exec_sdReadheader (s := replaceIn inp' s) hp]
    exact .next h.readHeader_replaceIn
  · rw [exec_sdReadtree hp, exec_sdReadtree (s := replaceIn inp' s) hp]
    exact .next h.readTree_replaceIn
  · rw [exec_sdCheck hp, exec_sdCheck (s := replaceIn inp' s) hp]
    exact .next (checkDone_replaceIn inp' s)
  · exact execDescLeaf_replaceIn inp' s
  · rw [exec_descRefill hp hn hw, exec_descRefill (s := replaceIn inp' s) hp hn hw]
    exact .next h.descRefill_replaceIn
  · rw [exec_descBranch hp hn hw, exec_descBranch (s := replaceIn inp' s) hp hn hw]
    exact .next (branch_replaceIn (bvMsb s.pend) inp' s)

theorem AgreesBelow.step_agree {inp' : Mem} {s : State} (h : AgreesBelow inp' s) (hu : Undisturbed s) :
    SameButIn inp' (step s) (step (replaceIn inp' s)) := by
  have hown : ownStep (replaceIn inp' s) = ownStep s := rfl
  have hbusy : busy (replaceIn inp' s).phase = busy s.phase := rfl
  rw [step_of_own hu.1 hu.2, step_of_own (s := replaceIn inp' s) hu.1 hu.2, fetchOwn, fetchOwn, hown, hbusy]
  cases ho : ownStep s with
  | some i => exact h.own_agree ho
  | none =>
    cases busy s.phase with
    | true => exact .refused _
    | false => exact .next rfl

/-- Settles O60: each byte that the block's own step reads lies below `inLen`. -/
theorem bytesPastTheInputLengthAreNotRead : Obligations.BytesPastTheInputLengthAreNotRead := by
  unfold Obligations.BytesPastTheInputLengthAreNotRead
  intro s inp' hu hs hread
  have hstep := AgreesBelow.step_agree ⟨hs, hread⟩ hu
  change step (replaceIn inp' s) = _
  generalize step s = o, step (replaceIn inp' s) = o' at hstep ⊢
  cases hstep with
  | next ht => exact congrArg _ ht
  | fault f => rfl
  | refused r => rfl

end Sys2Proof.Machine
end

section
/-! SUPPORT. Encoding: the decoder and the encoder of the byte formats agree (R80 to R92, R97), and a step runs what
the decoder reads. -/

namespace Sys2Proof.Machine

/-! ### The magic byte -/

theorem magicMode_magic4 (c : Config) : magicMode c c.magic4 = some .nibble4 := if_pos rfl

theorem magicMode_magic8 {c : Config} (h : c.magic8 ≠ c.magic4) : magicMode c c.magic8 = some .byte8 := by
  rw [magicMode, if_neg h, if_pos rfl]

theorem magicMode_of_neither {c : Config} {m : Byte} (h4 : m ≠ c.magic4) (h8 : m ≠ c.magic8) :
    magicMode c m = none := by
  rw [magicMode, if_neg h4, if_neg h8]

/-- The byte that selects a mode is that mode's magic value (R82). -/
theorem eq_of_magicMode {c : Config} {m : Byte} {mode : Mode} (h : magicMode c m = some mode) :
    mode = .nibble4 ∧ m = c.magic4 ∨ mode = .byte8 ∧ m = c.magic8 := by
  unfold magicMode at h
  split at h
  · cases h; exact .inl ⟨rfl, ‹_›⟩
  · split at h
    · cases h; exact .inr ⟨rfl, ‹_›⟩
    · cases h

/-! ### The fields of the formats -/

/-- The bytes of a length, put together again (R83). -/
theorem lengthOf_extract (len : BitVec 24) :
    lengthOf (len.extractLsb' 0 8) (len.extractLsb' 8 8) (len.extractLsb' 16 8) = len := by
  have high : len.extractLsb' 16 8 ++ len.extractLsb' 8 8 = len.extractLsb' 8 16 :=
    BitVec.extractLsb'_append_extractLsb'_eq_extractLsb' rfl
  have whole : len.extractLsb' 8 16 ++ len.extractLsb' 0 8 = len.extractLsb' 0 24 :=
    BitVec.extractLsb'_append_extractLsb'_eq_extractLsb' rfl
  exact (congrArg (· ++ len.extractLsb' 0 8) high).trans (whole.trans BitVec.extractLsb'_eq_self)

/-- The bytes of a length are the ones it was put together from (R83). -/
theorem extract_lengthOf (b1 b2 b3 : Byte) :
    (lengthOf b1 b2 b3).extractLsb' 0 8 = b1 ∧ (lengthOf b1 b2 b3).extractLsb' 8 8 = b2 ∧
      (lengthOf b1 b2 b3).extractLsb' 16 8 = b3 :=
  ⟨BitVec.extractLsb'_append_eq_right,
    (BitVec.extractLsb'_append_eq_of_le le_rfl).trans BitVec.extractLsb'_append_eq_right,
    (BitVec.extractLsb'_append_eq_of_le (by decide)).trans BitVec.extractLsb'_append_eq_left⟩

/-- The bits of a descriptor: `L0` above `L1` above `OFF` (R86). -/
theorem descriptorByte_getLsbD (l0 l1 : Bool) (off : BitVec 6) (i : Nat) :
    (descriptorByte l0 l1 off).getLsbD i =
      if i < 7 then (if i < 6 then off.getLsbD i else (BitVec.ofBool l1).getLsbD (i - 6))
      else (BitVec.ofBool l0).getLsbD (i - 7) := by
  have flag0 : (descriptorByte l0 l1 off).getLsbD i =
      if i < 7 then (BitVec.ofBool l1 ++ off).getLsbD i else (BitVec.ofBool l0).getLsbD (i - 7) :=
    BitVec.getLsbD_append
  rw [flag0, BitVec.getLsbD_append]

theorem descL0_descriptorByte (l0 l1 : Bool) (off : BitVec 6) : descL0 (descriptorByte l0 l1 off) = l0 := by
  rw [descL0, descriptorByte_getLsbD, if_neg (by decide), BitVec.getLsbD_ofBool]
  rfl

theorem descL1_descriptorByte (l0 l1 : Bool) (off : BitVec 6) : descL1 (descriptorByte l0 l1 off) = l1 := by
  rw [descL1, descriptorByte_getLsbD, if_pos (by decide), if_neg (by decide), BitVec.getLsbD_ofBool]
  rfl

theorem descOff_descriptorByte (l0 l1 : Bool) (off : BitVec 6) : descOff (descriptorByte l0 l1 off) = off :=
  (BitVec.extractLsb'_append_eq_of_add_le (by decide)).trans BitVec.extractLsb'_append_eq_right

/-- A descriptor is its flags and its offset: no bit of it is dropped (R86, R88). -/
theorem descriptorByte_of_fields (d : Byte) : descriptorByte (descL0 d) (descL1 d) (descOff d) = d := by
  refine BitVec.eq_of_getLsbD_eq fun i hi => ?_
  rw [descriptorByte_getLsbD, BitVec.getLsbD_ofBool, BitVec.getLsbD_ofBool, descOff, BitVec.getLsbD_extractLsb']
  split
  · split
    · next h => simp [h]
    · have h6 : i = 6 := by omega
      simp [h6, descL1]
  · have h7 : i = 7 := by omega
    simp [h7, descL0]

/-! ### The decoder against the encoder -/

/-- Settles O1: each row with a bit pattern, with the two magic values told apart and the fields read back. -/
theorem encodeThenDecodeGivesTheInstruction : Obligations.EncodeThenDecodeGivesTheInstruction := by
  unfold Obligations.EncodeThenDecodeGivesTheInstruction
  intro c i slot bytes hc hwf h
  cases i
  case hdrMagic4 => cases h; simp only [decode, magicMode_magic4]
  case hdrMagic8 => cases h; simp only [decode, magicMode_magic8 hc.1.symm]
  case hdrBadmagic m =>
    cases h
    obtain ⟨h4, h8⟩ := of_decide_eq_true hwf
    simp only [decode, magicMode_of_neither h4 h8]
  case hdrLen len => cases h; simp only [decode, lengthOf_extract]
  case treeNode a l0 l1 off =>
    cases h
    simp only [decode, descL0_descriptorByte, descL1_descriptorByte, descOff_descriptorByte]
  case treeSel | treeLeaf | bodyWindow | bodyBit0 | bodyBit1 => cases h; rfl
  -- The other rows have no bit pattern.
  all_goals cases h

/-- Settles O2: format by format, with the fields put together again. -/
theorem decodeThenEncodeGivesTheBytes : Obligations.DecodeThenEncodeGivesTheBytes := by
  unfold Obligations.DecodeThenEncodeGivesTheBytes
  intro c slot bytes i h
  unfold decode at h
  split at h
  case h_1 m =>
    cases hm : magicMode c m with
    | none => rw [hm] at h; cases h; rfl
    | some mode =>
      rw [hm] at h
      obtain ⟨rfl, rfl⟩ | ⟨rfl, rfl⟩ := eq_of_magicMode hm
      · cases h; rfl
      · cases h; rfl
  case h_2 b1 b2 b3 =>
    cases h
    obtain ⟨h1, h2, h3⟩ := extract_lengthOf b1 b2 b3
    simp only [encode, h1, h2, h3]
  case h_4 a d => cases h; simp only [encode, descriptorByte_of_fields]
  case h_7 b =>
    split at h
    · next hb => cases h; rw [hb]; rfl
    · split at h
      · next hb => cases h; rw [hb]; rfl
      · cases h
  case h_8 => cases h
  all_goals cases h; rfl

/-- What `encode` gives has the shape of its place: the length of the format there, and 0 or 1 for a stream bit. -/
theorem encode_shape {c : Config} {i : Instr} {slot : Slot} {bytes : List Byte}
    (h : encode c i = some (slot, bytes)) :
    bytes.length = slotLength slot ∧ (slot = .bit → bytes = [0#8] ∨ bytes = [1#8]) := by
  cases i
  case bodyBit0 => cases h; exact ⟨rfl, fun _ => .inl rfl⟩
  case bodyBit1 => cases h; exact ⟨rfl, fun _ => .inr rfl⟩
  all_goals cases h
  all_goals exact ⟨rfl, nofun⟩

/-- Every byte is a magic byte, good or bad (R82). -/
theorem decode_magic_ok (c : Config) (m : Byte) : ∃ i, decode c .magic [m] = .ok i := by
  rw [decode]
  cases magicMode c m with
  | none => exact ⟨_, rfl⟩
  | some mode => cases mode <;> exact ⟨_, rfl⟩

/-- Settles O3: bytes that decode are an encoding, which has the shape; bytes of the shape decode, place by place. -/
theorem decoderAcceptsExactlyTheFormats : Obligations.DecoderAcceptsExactlyTheFormats := by
  unfold Obligations.DecoderAcceptsExactlyTheFormats
  intro c slot bytes
  constructor
  · rintro ⟨i, h⟩
    exact encode_shape (decodeThenEncodeGivesTheBytes c slot bytes i h)
  · rintro ⟨hlen, hbit⟩
    match slot, bytes, hlen with
    | .magic, [m], _ => exact decode_magic_ok c m
    | .length, [b1, b2, b3], _ => exact ⟨_, rfl⟩
    | .selector, [b], _ => exact ⟨_, rfl⟩
    | .node a, [d], _ => exact ⟨_, rfl⟩
    | .leaf, [b], _ => exact ⟨_, rfl⟩
    | .window, [b0, b1, b2, b3], _ => exact ⟨_, rfl⟩
    | .bit, _, _ =>
      obtain rfl | rfl := hbit rfl
      · exact ⟨_, rfl⟩
      · exact ⟨_, rfl⟩

/-- Settles O4: the decoder run on each word. -/
theorem writtenWordsDecode : Obligations.WrittenWordsDecode := by
  unfold Obligations.WrittenWordsDecode
  decide

/-! ### What a step runs -/

theorem step_of_word {s : State} {slot : Slot} {bytes : List Byte} {i : Instr}
    (hq : s.issue = some (.word slot bytes)) (hd : decode s.cfg slot bytes = .ok i) :
    step s = exec i (takeIssue s) := by
  rw [step_of_issue hq, fetchIssue, takeIssue_cfg, hd, perform]

theorem step_of_undecodable {s : State} {slot : Slot} {bytes : List Byte} {e : DecodeError}
    (hq : s.issue = some (.word slot bytes)) (hd : decode s.cfg slot bytes = .error e) :
    step s = .refused (.undecodable e) := by
  rw [step_of_issue hq, fetchIssue, takeIssue_cfg, hd, perform]

/-- Settles O6, by what is put to the unit and what the decoder reads from it. -/
theorem stepRunsTheIssuedInstruction : Obligations.StepRunsTheIssuedInstruction := by
  unfold Obligations.StepRunsTheIssuedInstruction
  exact fun s => ⟨fun _ _ _ => step_of_word, fun _ _ _ => step_of_undecodable, fun _ hq => step_of_issue hq⟩

theorem placeWord_issue (slot : Slot) (bytes : List Byte) (s : State) :
    (placeWord slot bytes s).issue = some (.word slot bytes) := by
  cases slot <;> rfl

theorem placeWord_cfg (slot : Slot) (bytes : List Byte) (s : State) : (placeWord slot bytes s).cfg = s.cfg := by
  cases slot <;> rfl

/-- A table word that decodes has a place, and the decoder reads the instruction from its bytes there (log 13). -/
theorem decodeTableWord_eq_some {nbits w : Nat} {i : Instr} (h : decodeTableWord nbits w = some i) :
    ∃ slot, tableSlot nbits w = some slot ∧ decode Config.expected slot (tableBytes nbits w) = .ok i := by
  unfold decodeTableWord at h
  split at h
  · cases h
  · next slot hslot =>
    split at h
    · next hd => cases h; exact ⟨slot, hslot, hd⟩
    · cases h

/-- Settles O5: `withFetchWord` puts the bytes at the place in which `decodeTableWord` read them. -/
theorem tableWordIsRunByTheNextStep : Obligations.TableWordIsRunByTheNextStep := by
  unfold Obligations.TableWordIsRunByTheNextStep
  intro s nbits w i hc h
  obtain ⟨slot, hslot, hd⟩ := decodeTableWord_eq_some h
  have hplaced : s.withFetchWord nbits w = placeWord slot (tableBytes nbits w) s := by
    rw [State.withFetchWord, placeTableWord, hslot]
  rw [hplaced]
  exact step_of_word (placeWord_issue ..) (by rw [placeWord_cfg, hc, hd])

end Sys2Proof.Machine
end

section
/-! SUPPORT. What the rows of the header, the tree and the window do by themselves (R82 to R91), and what the
two stream bits do (R92). -/

namespace Sys2Proof.Machine

/-! ### The header rows -/

theorem inHeader_of_readHeader {s : State} (h : s.phase = .readHeader) (t : State) : inHeader s t = .next t :=
  if_pos h

/-- The region end as a number of 10 bits (R84). -/
theorem setSelector_eq (b : Byte) (s : State) :
    setSelector b s = { s with treeSel := b, treeEnd := BitVec.ofNat 10 (4 + (b.toNat + 1) * 2) } := by
  have hend : (setSelector b s).treeEnd = BitVec.ofNat 10 (4 + (b.toNat + 1) * 2) := by
    have hb := b.isLt
    apply BitVec.eq_of_toNat_eq
    rw [setSelector_treeEnd_toNat, BitVec.toNat_ofNat]
    omega
  rw [← hend]
  rfl

/-- HDR.BADMAGIC by what the byte selects (R82, log 20). -/
theorem exec_hdrBadmagic_of_none {s : State} {m : Byte} (hp : s.phase = .readHeader)
    (hm : magicMode s.cfg m = none) :
    exec (.hdrBadmagic m) s = .next (raise .unrecognizedFormat (.magic m) s) := by
  rw [exec, execHdrBadmagic, hm]
  exact inHeader_of_readHeader hp _

theorem exec_hdrBadmagic_of_some {s : State} {m : Byte} {mode : Mode} (hm : magicMode s.cfg m = some mode) :
    exec (.hdrBadmagic m) s = inHeader s (setMode mode s) := by
  rw [exec, execHdrBadmagic, hm]

/-- Settles O18, row by row. -/
theorem headerRowsWriteTheirRegisters : Obligations.HeaderRowsWriteTheirRegisters := by
  unfold Obligations.HeaderRowsWriteTheirRegisters
  intro s m sel len hp
  refine ⟨inHeader_of_readHeader hp _, inHeader_of_readHeader hp _, fun h4 h8 => ?bad, ?magic4, ?magic8,
    inHeader_of_readHeader hp _, ?sel⟩
  case bad => exact exec_hdrBadmagic_of_none hp (magicMode_of_neither h4 h8)
  case magic4 =>
    rintro rfl
    exact exec_hdrBadmagic_of_some (magicMode_magic4 s.cfg)
  case magic8 =>
    rintro rfl h4
    exact exec_hdrBadmagic_of_some (magicMode_magic8 h4)
  case sel => exact (inHeader_of_readHeader hp _).trans (congrArg _ (setSelector_eq sel s))

/-! ### The tree rows -/

theorem evenBase_eq (a : Nat) : evenBase a = a - a % 2 := by
  unfold evenBase; omega

/-- Settles O20: the pair of a descriptor at `a` starts past the even address of `a` (R145, R146). -/
theorem treeRowsReturnTheirFields : Obligations.TreeRowsReturnTheirFields := by
  unfold Obligations.TreeRowsReturnTheirFields
  intro s a l0 l1 off sym
  rw [← evenBase_eq]
  exact ⟨rfl, rfl⟩

/-! ### The window -/

/-- LITTLE reads the bytes of a window from the last to the first (R56). -/
theorem windowOf_little (b0 b1 b2 b3 : Byte) : windowOf .little b0 b1 b2 b3 = windowOf .big b3 b2 b1 b0 := rfl

/-- BIG reads them from the first to the last, each from its top bit (R91). -/
theorem windowOf_big_getLsbD (b0 b1 b2 b3 : Byte) {k : Nat} (hk : k < 32) :
    (windowOf .big b0 b1 b2 b3).getLsbD (31 - k) = ([b0, b1, b2, b3].getD (k / 8) 0#8).getLsbD (7 - k % 8) := by
  have bytes : (windowOf .big b0 b1 b2 b3).getLsbD (31 - k) =
      if 31 - k < 8 then b3.getLsbD (31 - k) else (b0 ++ b1 ++ b2).getLsbD (31 - k - 8) := BitVec.getLsbD_append
  rw [bytes, BitVec.getLsbD_append, BitVec.getLsbD_append]
  split
  · have hbyte : k / 8 = 3 := by omega
    have hbit : 31 - k = 7 - k % 8 := by omega
    rw [hbyte, hbit]; rfl
  · split
    · have hbyte : k / 8 = 2 := by omega
      have hbit : 31 - k - 8 = 7 - k % 8 := by omega
      rw [hbyte, hbit]; rfl
    · split
      · have hbyte : k / 8 = 1 := by omega
        have hbit : 31 - k - 8 - 8 = 7 - k % 8 := by omega
        rw [hbyte, hbit]; rfl
      · have hbyte : k / 8 = 0 := by omega
        have hbit : 31 - k - 8 - 8 - 8 = 7 - k % 8 := by omega
        rw [hbyte, hbit]; rfl

/-- Settles O21: the bits of the window value, in either order. -/
theorem windowBitsStandInStreamOrder : Obligations.WindowBitsStandInStreamOrder := by
  unfold Obligations.WindowBitsStandInStreamOrder
  intro s b0 b1 b2 b3
  refine ⟨windowOf s.cfg.windowOrder b0 b1 b2 b3, rfl, fun k hk => ?_⟩
  cases s.cfg.windowOrder with
  | big => exact windowOf_big_getLsbD b0 b1 b2 b3 hk
  | little =>
    have hj : k / 8 < 4 := by omega
    rw [windowOf_little, windowOf_big_getLsbD b3 b2 b1 b0 hk]
    congr 1
    generalize k / 8 = j at hj
    interval_cases j <;> rfl

/-! ### The stream bits -/

theorem bvDropMsb_eq (x : BitValue) : bvDropMsb x = ⟨x.v % 2 ^ (x.w - 1), x.w - 1⟩ := by
  rw [← bvDropMsb_v]; rfl

theorem branch_of_present {b : Bool} {s : State} (h : childOf s.node b ≠ .absent) :
    branch b s = { s with node := childOf s.node b
                          pend := ⟨s.pend.v % 2 ^ (s.pend.w - 1), s.pend.w - 1⟩ } := by
  obtain ⟨habsent, -⟩ | ⟨-, hbranch⟩ := branch_cases b s
  · exact absurd habsent h
  · rw [hbranch, bvDropMsb_eq]; rfl

/-- Settles O34: the row of the next bit is enabled and branches as DESC.BRANCH does, the other row is not enabled. -/
theorem streamBitsTakeTheirChild : Obligations.StreamBitsTakeTheirChild := by
  unfold Obligations.StreamBitsTakeTheirChild
  intro s c0 c1 hp hn hw
  have hdue : bitDue s = true := (bitDue_iff s).2 ⟨hp, ⟨c0, c1, hn⟩, hw⟩
  have hbranch := exec_descBranch hp hn hw
  have h0 : childOf s.node false = c0 := by rw [hn]; rfl
  have h1 : childOf s.node true = c1 := by rw [hn]; rfl
  rw [← bvMsb_eq s.pend hw]
  constructor
  · intro hbit
    have htaken : exec .bodyBit0 s = .next (branch false s) := if_pos ⟨hdue, hbit⟩
    refine ⟨fun hc => ?_, ?_, if_neg fun h => by simp [hbit] at h⟩
    · rw [htaken, branch_of_present (by rwa [h0]), h0]
    · rw [htaken, hbranch, hbit]
  · intro hbit
    have htaken : exec .bodyBit1 s = .next (branch true s) := if_pos ⟨hdue, hbit⟩
    refine ⟨fun hc => ?_, ?_, if_neg fun h => by simp [hbit] at h⟩
    · rw [htaken, branch_of_present (by rwa [h1]), h1]
    · rw [htaken, hbranch, hbit]

end Sys2Proof.Machine
end

section
/-! SUPPORT. A descent consumes exactly the bits of one path (R93, R175, R176). -/

namespace Sys2Proof.Machine

/-! ### The bits of a BitValue and of the windows -/

theorem pathBits_length (x : BitValue) : (pathBits x).length = x.w := by simp [pathBits]

/-- The first stream bit is the most significant one, and dropping it leaves the others (R57, R114, R117). -/
theorem pathBits_eq_cons (x : BitValue) (h : 1 ≤ x.w) : pathBits x = bvMsb x :: pathBits (bvDropMsb x) := by
  obtain ⟨n, hn⟩ : ∃ n, x.w = n + 1 := ⟨x.w - 1, by omega⟩
  rw [bvMsb_eq x h, pathBits, pathBits, bvDropMsb_w, bvDropMsb_v, hn, List.range_succ_eq_map, List.map_cons,
    List.map_map]
  refine congrArg _ (List.map_congr_left fun k hk => ?_)
  have hk : k < n := List.mem_range.1 hk
  have hbelow : n - 1 - k < n := by omega
  have hindex : n - (k + 1) = n - 1 - k := by omega
  simp only [Function.comp_apply, Nat.add_sub_cancel, Nat.testBit_mod_two_pow, hbelow, decide_true, Bool.true_and,
    Nat.succ_eq_add_one, hindex]

/-- A window below no pending bits is the bits of the window (R172, R199). -/
theorem pathBits_concat_window (p : BitValue) (W : BitVec 32) (hp : p.w = 0) :
    pathBits (bvConcat p (bvMake W.toNat 32)) = (List.range 32).map fun k => W.getLsbD (31 - k) := by
  rw [pathBits, bvConcat_w, hp, bvMake_w, Nat.zero_add]
  refine List.map_congr_left fun k hk => ?_
  have hk : k < 32 := List.mem_range.1 hk
  have hshift : ¬ 32 ≤ 31 - k := by omega
  simp only [bvConcat, bvMake_w, bvMake_v, BitVec.toNat_mod_cancel, Nat.testBit_or, Nat.testBit_shiftLeft, hshift,
    decide_false, Bool.false_and, Bool.false_or, BitVec.getLsbD]

theorem windowBits_add (c : Config) (rd : Nat → Byte) (m n cur : Nat) :
    windowBits c rd (m + n) cur = windowBits c rd m cur ++ windowBits c rd n (cur + 4 * m) := by
  induction m generalizing cur with
  | zero => simp [windowBits]
  | succ m ih =>
    rw [Nat.succ_add, windowBits, windowBits, ih, List.append_assoc, Nat.mul_succ, Nat.add_comm (4 * m), Nat.add_assoc]

/-! ### The bits a descent consumes -/

/-- The pending bits that a branch finds: at least one, the bits there were before it with the window it may have
fetched, which lies inside IN (R170, R178). -/
theorem pullBits_eq_some {c : Config} {rd : Nat → Byte} {len : Nat} {p q : BitValue} {cur cur' : Nat}
    (h : pullBits c rd len p cur = some (q, cur')) :
    1 ≤ q.w ∧ ∃ windows, cur' = cur + 4 * windows ∧ pathBits p ++ windowBits c rd windows cur = pathBits q ∧
      (1 ≤ windows → q.w ≤ 32 ∧ cur' ≤ len) := by
  unfold pullBits at h
  split at h
  · next hp =>
    split at h
    · cases h
    · next hlen =>
      cases h
      refine ⟨by rw [bvConcat_w, bvMake_w]; omega, 1, rfl, ?_, fun _ => ⟨?_, by omega⟩⟩
      · rw [pathBits_concat_window p _ hp, List.eq_nil_of_length_eq_zero ((pathBits_length p).trans hp)]
        simp [windowBits]
      · rw [bvConcat_w, bvMake_w, hp]
  · next hp =>
    cases h
    exact ⟨by omega, 0, rfl, by simp [windowBits], by omega⟩

/-- The bits between two points of a descent are those of one path to a leaf (R93): the pending bits `p` and the
windows fetched from `cur` on are the path's bits, then the pending bits `q`. Windows lie inside IN, and the last one
is not left whole (R176). -/
def ConsumesPath (c : Config) (rd : Nat → Byte) (len : Nat) (n : Trie) (p : BitValue) (cur : Nat) (sym : Byte)
    (q : BitValue) (cur' : Nat) : Prop :=
  ∃ path windows, follow n path = .leaf sym ∧ cur' = cur + 4 * windows ∧
    pathBits p ++ windowBits c rd windows cur = path ++ pathBits q ∧
    (1 ≤ windows → q.w < 32 ∧ cur' ≤ len)

section
variable {c : Config} {rd : Nat → Byte} {len : Nat}

theorem consumesPath_leaf (sym : Byte) (p : BitValue) (cur : Nat) :
    ConsumesPath c rd len (.leaf sym) p cur sym p cur :=
  ⟨[], 0, rfl, rfl, by simp [windowBits], by omega⟩

/-- A bit taken at an internal node is the first bit of the path (R92). -/
theorem ConsumesPath.internal {c0 c1 : Trie} {p r q : BitValue} {cur mid cur' : Nat} {sym : Byte}
    (hpull : pullBits c rd len p cur = some (r, mid))
    (h : ConsumesPath c rd len (if bvMsb r then c1 else c0) (bvDropMsb r) mid sym q cur') :
    ConsumesPath c rd len (.internal c0 c1) p cur sym q cur' := by
  obtain ⟨hr, first, rfl, hfirst, hinside⟩ := pullBits_eq_some hpull
  obtain ⟨path, later, hpath, rfl, hbits, hlater⟩ := h
  refine ⟨bvMsb r :: path, first + later, ?_, by omega, ?_, fun hsome => ?_⟩
  · rw [follow_internal_cons, ← hpath]
    split <;> rfl
  · rw [windowBits_add, ← List.append_assoc, hfirst, pathBits_eq_cons r hr, List.cons_append, hbits,
      List.cons_append]
  · by_cases hl : 1 ≤ later
    · exact hlater hl
    · obtain rfl : later = 0 := by omega
      obtain ⟨hwide, hend⟩ := hinside (by omega)
      have hcount := congrArg List.length hbits
      simp only [windowBits, List.length_append, List.length_nil, pathBits_length, bvDropMsb_w] at hcount
      exact ⟨by omega, hend⟩

theorem descend_internal {c0 c1 : Trie} {p q : BitValue} {cur cur' : Nat} {sym : Byte}
    (h : descend c rd len (.internal c0 c1) p cur = .symbol sym q cur') :
    ∃ r mid, pullBits c rd len p cur = some (r, mid) ∧
      descend c rd len (if bvMsb r then c1 else c0) (bvDropMsb r) mid = .symbol sym q cur' := by
  rw [descend] at h
  split at h
  · cases h
  · next r mid hpull =>
    refine ⟨r, mid, hpull, ?_⟩
    split <;> simp_all

/-- A descent that returns a symbol has consumed one path from its node (R175). -/
theorem consumesPath_of_descend {n : Trie} {p q : BitValue} {cur cur' : Nat} {sym : Byte}
    (h : descend c rd len n p cur = .symbol sym q cur') : ConsumesPath c rd len n p cur sym q cur' := by
  induction n generalizing p cur with
  | absent => cases h
  | leaf sym' => cases h; exact consumesPath_leaf ..
  | internal c0 c1 ih0 ih1 =>
    obtain ⟨r, mid, hpull, hchild⟩ := descend_internal h
    refine .internal hpull ?_
    cases hb : bvMsb r with
    | true => rw [hb] at hchild; exact ih1 hchild
    | false => rw [hb] at hchild; exact ih0 hchild

end

/-- Settles O39, by induction on the trie the descent walks. -/
theorem descentConsumesExactlyOneCode : Obligations.DescentConsumesExactlyOneCode := by
  unfold Obligations.DescentConsumesExactlyOneCode
  exact fun _ _ _ _ _ _ _ _ _ => consumesPath_of_descend

end Sys2Proof.Machine
end

section
/-! SUPPORT. The operations of the bit extractor run by themselves (R110 to R120): what each returns in arithmetic,
that it is masked, and the width limit. -/

namespace Sys2Proof.Machine

/-! ### The results in arithmetic -/

section
variable {x y : BitValue}

theorem bvMake_eq (v w : Nat) : bvMake v w = ⟨v % 2 ^ w, w⟩ := by
  rw [← bvMake_v]; rfl

/-- Below `2^low.w` the low part meets no bit of the shifted high part, so `or` is the sum (R113). -/
theorem bvConcat_eq (x : BitValue) (hy : y.ok) : bvConcat x y = ⟨x.v * 2 ^ y.w + y.v, x.w + y.w⟩ := by
  rw [bvConcat, ← Nat.shiftLeft_add_eq_or_of_lt hy, Nat.shiftLeft_eq]

theorem bvShl_eq (x : BitValue) (n : Nat) : bvShl x n = ⟨x.v * 2 ^ n, x.w + n⟩ := by
  rw [bvShl, Nat.shiftLeft_eq]

/-- One equation for both cases of R115: past the width no bit of a BitValue is left. -/
theorem bvShr_eq (hx : x.ok) (n : Nat) : bvShr x n = ⟨x.v / 2 ^ n, x.w - n⟩ := by
  by_cases hn : n ≤ x.w
  · rw [bvShr, if_pos hn, Nat.shiftRight_eq_div_pow]
  · have hv : x.v / 2 ^ n = 0 := Nat.div_eq_of_lt (hx.trans_le (Nat.pow_le_pow_right two_pos (by omega)))
    have hw : x.w - n = 0 := by omega
    rw [bvShr, if_neg hn, hv, hw]

/-- The top bit of a BitValue is set exactly when its value reaches `2^(w-1)` (R114). -/
theorem bvMsb_eq_decide (hx : x.ok) : bvMsb x = decide (1 ≤ x.w ∧ 2 ^ (x.w - 1) ≤ x.v) := by
  by_cases hw : 1 ≤ x.w
  · have hlt : x.v < 2 ^ (x.w - 1 + 1) := by rwa [Nat.sub_add_cancel hw]
    rw [bvMsb_eq x hw, Bool.eq_iff_iff, decide_eq_true_iff]
    exact ⟨fun h => ⟨hw, Nat.ge_two_pow_of_testBit h⟩,
      fun h => Nat.testBit_of_two_pow_le_and_two_pow_add_one_gt h.2 hlt⟩
  · rw [bvMsb, if_pos (by omega), decide_eq_false fun h => hw h.1]

theorem bvMatches_eq_decide (x y : BitValue) : bvMatches x y = decide (x.w ≤ y.w ∧ y.v % 2 ^ x.w = x.v) := by
  rw [bvMatches, mask, Nat.and_two_pow_sub_one_eq_mod]
  split
  · next h => exact (decide_eq_false fun hle => by omega).symm
  · next h => simp [Nat.not_lt.1 h]

/-- What R117 keeps of a BitValue: its value without the top bit. -/
theorem bvDropMsb_eq_ite (hx : x.ok) (hw : 1 ≤ x.w) :
    bvDropMsb x = ⟨if 2 ^ (x.w - 1) ≤ x.v then x.v - 2 ^ (x.w - 1) else x.v, x.w - 1⟩ := by
  have hpow : 2 ^ x.w = 2 * 2 ^ (x.w - 1) := by rw [← Nat.pow_succ', Nat.succ_eq_add_one, Nat.sub_add_cancel hw]
  have hlt : x.v < 2 * 2 ^ (x.w - 1) := hpow ▸ hx
  rw [bvDropMsb_eq]
  split
  · next h => rw [Nat.mod_eq_sub_mod h, Nat.mod_eq_of_lt (by omega)]
  · next h => rw [Nat.mod_eq_of_lt (Nat.not_le.1 h)]

/-! ### The masking invariant (R118) -/

theorem bvConcat_ok (hx : x.ok) (hy : y.ok) : (bvConcat x y).ok := by
  rw [bvConcat_eq x hy, BitValue.ok, Nat.pow_add]
  calc x.v * 2 ^ y.w + y.v < (x.v + 1) * 2 ^ y.w := by rw [Nat.succ_mul]; exact Nat.add_lt_add_left hy _
    _ ≤ 2 ^ x.w * 2 ^ y.w := Nat.mul_le_mul_right _ hx

theorem bvShl_ok (hx : x.ok) (n : Nat) : (bvShl x n).ok := by
  rw [bvShl_eq, BitValue.ok, Nat.pow_add]
  exact Nat.mul_lt_mul_of_pos_right hx (Nat.two_pow_pos n)

theorem bvShr_ok (hx : x.ok) (n : Nat) : (bvShr x n).ok := by
  have hw : x.w ≤ x.w - n + n := by omega
  rw [bvShr_eq hx, BitValue.ok, Nat.div_lt_iff_lt_mul (Nat.two_pow_pos n), ← Nat.pow_add]
  exact hx.trans_le (Nat.pow_le_pow_right two_pos hw)

/-! ### The bits of a concatenation -/

theorem bvConcat_testBit (x : BitValue) (hy : y.ok) (k : Nat) :
    (bvConcat x y).v.testBit k = if k < y.w then y.v.testBit k else x.v.testBit (k - y.w) := by
  rw [bvConcat_eq x hy, Nat.mul_comm, Nat.testBit_two_pow_mul_add _ hy]

/-- Shifting the low part out leaves the high part (R113, R115). -/
theorem bvShr_bvConcat (hx : x.ok) (hy : y.ok) : bvShr (bvConcat x y) y.w = x := by
  rw [bvShr_eq (bvConcat_ok hx hy), bvConcat_eq x hy, Nat.mul_comm, Nat.mul_add_div (Nat.two_pow_pos _),
    Nat.div_eq_of_lt hy, Nat.add_zero, Nat.add_sub_cancel]

/-- In stream order the high part comes first (R110, R113). -/
theorem pathBits_bvConcat (x : BitValue) (hy : y.ok) : pathBits (bvConcat x y) = pathBits x ++ pathBits y := by
  rw [pathBits, bvConcat_w, List.range_add, List.map_append, List.map_map]
  refine congrArg₂ _ (List.map_congr_left fun k hk => ?high) (List.map_congr_left fun k hk => ?low)
  case high =>
    have hk : k < x.w := List.mem_range.1 hk
    have hindex : x.w + y.w - 1 - k - y.w = x.w - 1 - k := by omega
    rw [bvConcat_testBit x hy, if_neg (by omega), hindex]
  case low =>
    have hk : k < y.w := List.mem_range.1 hk
    have hindex : x.w + y.w - 1 - (x.w + k) = y.w - 1 - k := by omega
    rw [Function.comp_apply, bvConcat_testBit x hy, hindex, if_pos (by omega)]

end

/-! ### The rows run by themselves -/

theorem returnBits_of_le {x : BitValue} {s : State} (h : x.w ≤ s.cfg.bvMax) :
    returnBits x s = .next { s with ret := .bits x } := if_pos h

theorem returnBits_of_lt {x : BitValue} {s : State} (h : s.cfg.bvMax < x.w) :
    returnBits x s = .refused .widerThanBvMax := if_neg (Nat.not_le.2 h)

theorem returnBits_masked {x y : BitValue} {s t : State} (hy : y.ok) (h : returnBits y s = .next t)
    (hret : t.ret = .bits x) : x.ok ∧ x.w ≤ s.cfg.bvMax := by
  obtain ⟨hw, rfl⟩ := returnBits_next h
  cases hret
  exact ⟨hy, hw⟩

theorem exec_bvDropmsb_of_pos {x : BitValue} (hw : 1 ≤ x.w) (s : State) :
    exec (.bvDropmsb x) s = returnBits (bvDropMsb (bvOperand x)) s := if_pos hw

/-- For width 0 the row returns a free BitValue and takes one draw (log 24). -/
theorem exec_bvDropmsb_of_zero {x : BitValue} (hw : x.w = 0) (s : State) :
    exec (.bvDropmsb x) s =
      .next { s with ret := .bits (bvWithin s.cfg.bvMax (Config.freeBits s.draws)), draws := s.draws + 1 } :=
  if_neg (by omega)

/-- Settles O16, operation by operation: each masked result passes the width limit of R120. -/
theorem everyReturnedBitValueIsMasked : Obligations.EveryReturnedBitValueIsMasked := by
  unfold Obligations.EveryReturnedBitValueIsMasked
  rintro s t i x (⟨v, w, rfl⟩ | ⟨a, b, rfl⟩ | ⟨a, n, rfl⟩ | ⟨a, n, rfl⟩ | ⟨a, rfl⟩) h hret
  · exact returnBits_masked (bvMake_ok v w) h hret
  · exact returnBits_masked (bvConcat_ok (bvOperand_ok a) (bvOperand_ok b)) h hret
  · exact returnBits_masked (bvShr_ok (bvOperand_ok a) n) h hret
  · exact returnBits_masked (bvShl_ok (bvOperand_ok a) n) h hret
  · by_cases hw : 1 ≤ a.w
    · rw [exec_bvDropmsb_of_pos hw] at h
      exact returnBits_masked (bvDropMsb_ok _) h hret
    · rw [exec_bvDropmsb_of_zero (by omega)] at h
      cases h
      cases hret
      exact ⟨bvWithin_ok _ _, bvWithin_w_le _ _⟩

/-- Settles O17, by the bits of the concatenation. -/
theorem concatKeepsBothParts : Obligations.ConcatKeepsBothParts := by
  unfold Obligations.ConcatKeepsBothParts
  exact fun a b ha hb => ⟨bvConcat_testBit a hb, bvShr_bvConcat ha hb, pathBits_bvConcat a hb⟩

/-- Settles O10: masking is the remainder by `2^width`. -/
theorem makeMasksToTheWidth : Obligations.MakeMasksToTheWidth := by
  unfold Obligations.MakeMasksToTheWidth
  intro value width s hw
  rw [← bvMake_eq]
  exact returnBits_of_le hw

/-- Settles O11: on BitValues `or` is the sum. -/
theorem concatPutsTheHighBitsAbove : Obligations.ConcatPutsTheHighBitsAbove := by
  unfold Obligations.ConcatPutsTheHighBitsAbove
  intro high low s hhigh hlow hw
  rw [exec, execBvConcat, bvOperand_of_ok hhigh, bvOperand_of_ok hlow, ← bvConcat_eq high hlow]
  exact returnBits_of_le hw

/-- Settles O12, by the two Booleans in arithmetic. -/
theorem msbAndMatchesReturnTheirBit : Obligations.MsbAndMatchesReturnTheirBit := by
  unfold Obligations.MsbAndMatchesReturnTheirBit
  intro x y s hx hy
  rw [← bvMsb_eq_decide hx, ← bvMatches_eq_decide, exec, exec, execBvMsb, execBvMatches, bvOperand_of_ok hx,
    bvOperand_of_ok hy]
  exact ⟨rfl, rfl⟩

/-- Settles O13: a shift is a division or a product by `2^n`. -/
theorem shiftsMoveTheWidthToo : Obligations.ShiftsMoveTheWidthToo := by
  unfold Obligations.ShiftsMoveTheWidthToo
  intro x n s hx
  rw [← bvShr_eq hx, ← bvShl_eq, exec, exec, execBvShr, execBvShl, bvOperand_of_ok hx]
  exact ⟨fun hw => returnBits_of_le (by rwa [bvShr_w]), fun hw => returnBits_of_le hw⟩

/-- Settles O14, by the width: at least 1 (R117) or 0 (log 24). -/
theorem dropMsbKeepsTheOtherBits : Obligations.DropMsbKeepsTheOtherBits := by
  unfold Obligations.DropMsbKeepsTheOtherBits
  intro x s hx
  refine ⟨fun hw hmax => ?_, fun hw => ⟨_, bvWithin_ok _ _, bvWithin_w_le _ _, exec_bvDropmsb_of_zero hw s⟩⟩
  rw [exec_bvDropmsb_of_pos hw, bvOperand_of_ok hx, ← bvDropMsb_eq_ite hx hw]
  exact returnBits_of_le hmax

/-- Settles O15: the width of each result is known before its value. -/
theorem widerResultsAreRefused : Obligations.WiderResultsAreRefused := by
  unfold Obligations.WiderResultsAreRefused
  intro x y n value s
  refine ⟨fun h => returnBits_of_lt h, fun h => returnBits_of_lt h, fun h => ?shr, fun h => returnBits_of_lt h,
    fun h => ?dropMsb⟩
  case shr =>
    refine returnBits_of_lt (x := bvShr (bvOperand x) n) ?_
    rwa [bvShr_w, bvOperand_w]
  case dropMsb =>
    rw [exec_bvDropmsb_of_pos (by omega)]
    exact returnBits_of_lt h

end Sys2Proof.Machine
end

section
/-! SUPPORT. The tree decoder: decodeNode obeys its recursion, and the in-place walk is the walk of the trie it
builds (R141 to R155). -/

namespace Sys2Proof.Machine

/-! ### The recursion of decodeNode -/

/-- Child addresses strictly increase (R151). -/
theorem lt_child1Addr (a : Nat) (off : BitVec 6) : a < child1Addr a off := Nat.lt_succ_of_lt (lt_child0Addr a off)

section
variable (rd : List Bool → Nat → Byte) (place : List Bool) {a regionEnd : Nat} (isLeaf : Bool)

/-- No node stands at or past the region's end, whatever the flag (R142). -/
theorem decodeNodeFuel_of_le (fuel : Nat) (h : regionEnd ≤ a) :
    decodeNodeFuel rd fuel place a regionEnd isLeaf = .absent := by
  cases fuel with
  | zero => rfl
  | succ fuel => exact if_pos h

/-- Each child stands past its parent, so a bound of `regionEnd - a` on the depth is never met (R151). -/
theorem decodeNodeFuel_eq_of_le (fuel fuel' : Nat) (h : regionEnd - a ≤ fuel) (h' : regionEnd - a ≤ fuel') :
    decodeNodeFuel rd fuel place a regionEnd isLeaf = decodeNodeFuel rd fuel' place a regionEnd isLeaf := by
  induction fuel generalizing place a isLeaf fuel' with
  | zero =>
    have ha : regionEnd ≤ a := by omega
    rw [decodeNodeFuel_of_le _ _ _ _ ha, decodeNodeFuel_of_le _ _ _ _ ha]
  | succ fuel ih =>
    cases fuel' with
    | zero => exact decodeNodeFuel_of_le _ _ _ _ (by omega)
    | succ fuel' =>
      have h0 := lt_child0Addr a (descOff (rd place a))
      have h1 := lt_child1Addr a (descOff (rd place a))
      rw [decodeNodeFuel, decodeNodeFuel, ih _ _ fuel' (by omega) (by omega), ih _ _ fuel' (by omega) (by omega)]

theorem decodeNodeFuel_eq_decodeNode (fuel : Nat) (h : regionEnd - a ≤ fuel) :
    decodeNodeFuel rd fuel place a regionEnd isLeaf = decodeNode rd place a regionEnd isLeaf :=
  decodeNodeFuel_eq_of_le rd place isLeaf fuel (regionEnd - a) h le_rfl

/-- The pseudocode of R141. -/
theorem decodeNode_eq :
    decodeNode rd place a regionEnd isLeaf =
      if regionEnd ≤ a then .absent
      else if isLeaf then .leaf (rd place a)
      else
        .internal
          (decodeNode rd (false :: place) (child0Addr a (descOff (rd place a))) regionEnd (descL0 (rd place a)))
          (decodeNode rd (true :: place) (child1Addr a (descOff (rd place a))) regionEnd (descL1 (rd place a))) := by
  have h0 := lt_child0Addr a (descOff (rd place a))
  have h1 := lt_child1Addr a (descOff (rd place a))
  rw [← decodeNodeFuel_eq_decodeNode rd place isLeaf (regionEnd - a + 1) (Nat.le_succ _), decodeNodeFuel,
    decodeNodeFuel_eq_decodeNode _ _ _ _ (by omega), decodeNodeFuel_eq_decodeNode _ _ _ _ (by omega)]

/-- A node is absent exactly at or past the region's end (R142). -/
theorem decodeNode_eq_absent_iff : decodeNode rd place a regionEnd isLeaf = .absent ↔ regionEnd ≤ a := by
  rw [decodeNode_eq]
  split
  · next h => exact iff_of_true rfl h
  · next h => exact iff_of_false (by cases isLeaf <;> exact nofun) h

end

/-! ### The fields of a descriptor in arithmetic (R86) -/

theorem descOff_toNat (d : Byte) : (descOff d).toNat = d.toNat % 64 := by
  simp [descOff]

theorem descL0_eq (d : Byte) : descL0 d = decide (128 ≤ d.toNat) :=
  BitVec.msb_eq_decide d

theorem descL1_eq (d : Byte) : descL1 d = decide (64 ≤ d.toNat % 128) := by
  rw [descL1, BitVec.getLsbD, Nat.testBit_eq_decide_div_mod_eq, decide_eq_decide]
  omega

theorem child0Addr_eq (a : Nat) (off : BitVec 6) : child0Addr a off = (a - a % 2) + off.toNat * 2 + 2 := by
  unfold child0Addr evenBase; omega

/-! ### The obligations on the tree decoder -/

/-- Both walks take the same branch of R142 to R146 at each node. -/
theorem descendInPlaceFuel_eq (c : Config) (rd : Nat → Byte) (len regionEnd fuel : Nat) (place : List Bool)
    (a : Nat) (isLeaf : Bool) (p : BitValue) (cur : Nat) :
    descendInPlaceFuel c rd len regionEnd fuel a isLeaf p cur =
      descend c rd len (decodeNodeFuel (fun _ k => rd k) fuel place a regionEnd isLeaf) p cur := by
  induction fuel generalizing place a isLeaf p cur with
  | zero => rfl
  | succ fuel ih =>
    rw [descendInPlaceFuel, decodeNodeFuel]
    by_cases ha : regionEnd ≤ a
    · rw [if_pos ha, if_pos ha, descend]
    · rw [if_neg ha, if_neg ha]
      cases isLeaf with
      | true => rfl
      | false =>
        rw [if_neg Bool.false_ne_true, if_neg Bool.false_ne_true, descend]
        cases pullBits c rd len p cur with
        | none => rfl
        | some r =>
          dsimp only
          rw [ih (true :: place), ih (false :: place)]

/-- Settles O27: the two walks have the same bound on the depth. -/
theorem inPlaceWalkEqualsBuiltWalk : Obligations.InPlaceWalkEqualsBuiltWalk := by
  unfold Obligations.InPlaceWalkEqualsBuiltWalk
  exact fun c rd len regionEnd a isLeaf p cur => descendInPlaceFuel_eq c rd len regionEnd _ [] a isLeaf p cur

/-- Settles O22: the recursion of decodeNode with the fields of the descriptor in arithmetic. -/
theorem decodeNodeObeysItsRule : Obligations.DecodeNodeObeysItsRule := by
  unfold Obligations.DecodeNodeObeysItsRule
  intro rd place a regionEnd isLeaf
  rw [decodeNode_eq, child1Addr, child0Addr_eq, descOff_toNat, descL0_eq, descL1_eq]

/-- What TD.DECODENODE returns with any content of IN that agrees with it below the effective end (R149). -/
theorem exec_tdDecodenode {s : State} {rd : List Bool → Nat → Byte}
    (hrd : ∀ place k, k < s.inLen → rd place k = readIn s place k) (a regionEnd : Nat) (isLeaf : Bool) :
    exec (.tdDecodenode a regionEnd isLeaf) s =
      .next { s with ret := .trie (decodeNode rd [] a (min regionEnd s.inLen) isLeaf),
                     draws := if s.inStable then s.draws else s.draws + 1 } := by
  have hnode : decodeNode rd [] a (min regionEnd s.inLen) isLeaf =
      decodeNode (readIn s) [] a (min regionEnd s.inLen) isLeaf :=
    decodeNodeFuel_congr (fun place k hk => hrd place k (lt_of_lt_of_le hk (min_le_right _ _))) _ _ _ _
  rw [hnode, exec, execTdDecodenode, noteRead_eq]
  rfl

/-- Settles O23: the region ends at the smaller of its end and `inLen`. -/
theorem decodenodeReturnsTheNode : Obligations.DecodenodeReturnsTheNode := by
  unfold Obligations.DecodenodeReturnsTheNode
  intro s a regionEnd isLeaf rd hrd
  have hexec := exec_tdDecodenode hrd a regionEnd isLeaf
  constructor
  · intro hle
    rwa [min_eq_left hle] at hexec
  · intro hlt
    rwa [min_eq_right hlt.le] at hexec

/-- Settles O24: each level of the trie takes one pair of the region. -/
theorem noNodeIsDeeperThanTheSelector : Obligations.NoNodeIsDeeperThanTheSelector := by
  unfold Obligations.NoNodeIsDeeperThanTheSelector
  intro s path hend hpath
  have hdeep := decodeRoot_depth s path hpath
  have heff : effEnd s ≤ s.treeEnd.toNat := min_le_left _ _
  omega

/-- Settles O25, by the two cases of the root. -/
theorem rootIsAbsentExactlyWhenInIsShort : Obligations.RootIsAbsentExactlyWhenInIsShort := by
  unfold Obligations.RootIsAbsentExactlyWhenInIsShort
  intro s hend
  have heff : effEnd s = min s.treeEnd.toNat s.inLen := rfl
  rcases decodeRoot_cases s with ⟨hshort, hroot⟩ | ⟨hlong, c0, c1, hroot⟩ <;> rw [hroot]
  · exact ⟨iff_of_true rfl (by omega), nofun⟩
  · exact ⟨iff_of_false nofun (by omega), nofun⟩

/-- Settles O26: child 0 stands at an even address and child 1 next to it, so an even end parts no pair. -/
theorem childrenAreBothPresentOrBothAbsent : Obligations.ChildrenAreBothPresentOrBothAbsent := by
  unfold Obligations.ChildrenAreBothPresentOrBothAbsent
  intro rd place a regionEnd isLeaf c0 c1 heven hnode
  rw [decodeNode_eq] at hnode
  split at hnode
  · cases hnode
  · split at hnode
    · cases hnode
    · cases hnode
      have h0 := child0Addr_even a (descOff (rd place a))
      rw [decodeNode_eq_absent_iff, decodeNode_eq_absent_iff, child1Addr]
      omega

end Sys2Proof.Machine
end

section
/-! SUPPORT. Construction of a trie from paths and symbols (R157, R158, R120): TRIE.INSERT puts one leaf at a path
that nothing blocks, and TRIE.FROMMAP gives the one trie that holds the pairs of its list. -/

namespace Sys2Proof.Machine

/-! ### Paths one bit at a time -/

theorem follow_cons (t : Trie) (b : Bool) (path : List Bool) :
    follow t (b :: path) = follow (childOf t b) path := by
  rw [← follow_singleton, ← follow_append, List.singleton_append]

theorem blocked_nil (t : Trie) : Blocked t [] ↔ t ≠ .absent := by
  simp [Blocked]

/-- A leaf blocks every path, and any other trie the paths that the first bit's child blocks (R157). -/
theorem blocked_cons (t : Trie) (b : Bool) (path : List Bool) :
    Blocked t (b :: path) ↔ (∃ x, t = .leaf x) ∨ Blocked (childOf t b) path := by
  unfold Blocked
  rw [List.length_cons, Nat.exists_lt_succ_left, List.take_zero, follow_nil]
  simp only [List.take_succ_cons, follow_cons]
  exact or_left_comm

theorem blocked_leaf (x : Byte) (path : List Bool) : Blocked (.leaf x) path := by
  cases path with
  | nil => exact (blocked_nil _).2 nofun
  | cons b path => exact (blocked_cons _ _ _).2 (.inl ⟨x, rfl⟩)

/-! ### The trie with a leaf put at a path -/

/-- `t` with `r` as the child of bit `b`; an absent node becomes an internal one (R157). -/
def withChild (t : Trie) (b : Bool) (r : Trie) : Trie :=
  if b then .internal (childOf t false) r else .internal r (childOf t true)

theorem childOf_withChild (t : Trie) (b : Bool) (r : Trie) (c : Bool) :
    childOf (withChild t b r) c = if c = b then r else childOf t c := by
  cases b <;> cases c <;> rfl

theorem withChild_ne_absent (t : Trie) (b : Bool) (r : Trie) : withChild t b r ≠ .absent := by
  cases b <;> exact nofun

theorem withChild_ne_leaf (t : Trie) (b : Bool) (r : Trie) (x : Byte) : withChild t b r ≠ .leaf x := by
  cases b <;> exact nofun

/-- `t` with the leaf `sym` put at a path that nothing blocks: what `insert` returns (R157, `insertBits_spec`). -/
def placeLeaf (sym : Byte) : List Bool → Trie → Trie
  | [], _ => .leaf sym
  | b :: path, t => withChild t b (placeLeaf sym path (childOf t b))

theorem follow_placeLeaf_self (sym : Byte) (path : List Bool) (t : Trie) :
    follow (placeLeaf sym path t) path = .leaf sym := by
  induction path generalizing t with
  | nil => exact follow_nil _
  | cons b path ih => rw [placeLeaf, follow_cons, childOf_withChild, if_pos rfl, ih]

/-- Every other leaf stands where it stood (R157). -/
theorem follow_placeLeaf_eq_leaf_iff {sym : Byte} {path : List Bool} {t : Trie} (h : ¬ Blocked t path)
    (q : List Bool) (x : Byte) :
    follow (placeLeaf sym path t) q = .leaf x ↔ follow t q = .leaf x ∨ path = q ∧ sym = x := by
  induction path generalizing t q with
  | nil =>
    obtain rfl : t = .absent := by simpa [blocked_nil] using h
    cases q <;> simp [placeLeaf]
  | cons b path ih =>
    obtain ⟨hleaf, hchild⟩ := not_or.1 (mt (blocked_cons t b path).2 h)
    rw [placeLeaf]
    cases q with
    | nil =>
      have ht : t ≠ .leaf x := fun e => hleaf ⟨x, e⟩
      simp [withChild_ne_leaf, ht]
    | cons c q =>
      rw [follow_cons, follow_cons, childOf_withChild]
      by_cases hc : c = b
      · subst hc
        simp [ih hchild]
      · simp [hc, Ne.symm hc]

/-- The new nodes are those on the way to the new leaf (R157). -/
theorem follow_placeLeaf_ne_absent_iff {sym : Byte} {path : List Bool} {t : Trie} (h : ¬ Blocked t path)
    (q : List Bool) :
    follow (placeLeaf sym path t) q ≠ .absent ↔ follow t q ≠ .absent ∨ q <+: path := by
  induction path generalizing t q with
  | nil =>
    obtain rfl : t = .absent := by simpa [blocked_nil] using h
    cases q <;> simp [placeLeaf]
  | cons b path ih =>
    obtain ⟨-, hchild⟩ := not_or.1 (mt (blocked_cons t b path).2 h)
    rw [placeLeaf]
    cases q with
    | nil => simp [withChild_ne_absent]
    | cons c q =>
      rw [follow_cons, follow_cons, childOf_withChild, List.cons_prefix_cons]
      by_cases hc : c = b
      · subst hc
        simpa using ih hchild q
      · simp [hc]

/-! ### insert puts the leaf, or rejects -/

/-- One bit of the path, at an absent or an internal node (R157). -/
theorem insertBits_succ {t : Trie} (ht : ∀ x, t ≠ .leaf x) (width : Nat) (path : BitValue) (sym : Byte) :
    insertBits (width + 1) t path sym =
      (insertBits width (childOf t (bvMsb path)) (bvDropMsb path) sym).map (withChild t (bvMsb path)) := by
  cases t with
  | absent => rw [insertBits]; cases bvMsb path <;> rfl
  | leaf x => exact absurd rfl (ht x)
  | internal c0 c1 => rw [insertBits]; cases bvMsb path <;> rfl

theorem insertBits_leaf (width : Nat) (x : Byte) (path : BitValue) (sym : Byte) :
    insertBits width (.leaf x) path sym = none := by
  cases width <;> rfl

/-- `insert` rejects exactly where something blocks the path, and otherwise puts the leaf there (R157, R250). -/
theorem insertBits_spec (width : Nat) {path : BitValue} (hw : path.w = width) (t : Trie) (sym : Byte) :
    (Blocked t (pathBits path) → insertBits width t path sym = none) ∧
    (¬ Blocked t (pathBits path) → insertBits width t path sym = some (placeLeaf sym (pathBits path) t)) := by
  induction width generalizing path t with
  | zero =>
    rw [List.eq_nil_of_length_eq_zero ((pathBits_length path).trans hw), blocked_nil]
    cases t with
    | absent => exact ⟨fun h => absurd rfl h, fun _ => rfl⟩
    | leaf x => exact ⟨fun _ => rfl, fun h => absurd nofun h⟩
    | internal c0 c1 => exact ⟨fun _ => rfl, fun h => absurd nofun h⟩
  | succ width ih =>
    by_cases ht : ∃ x, t = .leaf x
    · obtain ⟨x, rfl⟩ := ht
      exact ⟨fun _ => insertBits_leaf _ _ _ _, fun h => absurd (blocked_leaf _ _) h⟩
    · obtain ⟨hblocked, hfree⟩ := ih (path := bvDropMsb path) (by rw [bvDropMsb_w, hw, Nat.add_sub_cancel])
        (childOf t (bvMsb path))
      rw [pathBits_eq_cons path (by omega), blocked_cons, or_iff_right ht, insertBits_succ (not_exists.1 ht)]
      exact ⟨fun h => by rw [hblocked h, Option.map_none],
        fun h => by rw [hfree h, Option.map_some, placeLeaf]⟩

section
variable {limit : Nat} {path : BitValue} {t : Trie} (sym : Byte)

theorem insertWithin_of_blocked (hw : path.w ≤ limit + 1) (h : Blocked t (pathBits path)) :
    insertWithin limit t path sym = .reject := by
  rw [insertWithin_of_le hw, trieInsert, (insertBits_spec path.w rfl t sym).1 h]

theorem insertWithin_of_not_blocked (hw : path.w ≤ limit + 1) (h : ¬ Blocked t (pathBits path)) :
    insertWithin limit t path sym = .trie (placeLeaf sym (pathBits path) t) := by
  rw [insertWithin_of_le hw, trieInsert, (insertBits_spec path.w rfl t sym).2 h]

/-- A leaf rejects every path before any `dropMsb` (log 25). -/
theorem insertWithin_leaf (limit : Nat) (x : Byte) (path : BitValue) :
    insertWithin limit (.leaf x) path sym = .reject := by
  rw [insertWithin, insertTooWide, if_neg Bool.false_ne_true, trieInsert, insertBits_leaf]

/-- The first `dropMsb` of a wider path is too wide (R120). -/
theorem insertWithin_of_lt (hw : limit + 1 < path.w) (h : ∀ x, t ≠ .leaf x) :
    insertWithin limit t path sym = .tooWide := by
  have hlt : limit < path.w - 1 := by omega
  cases t with
  | absent => exact if_pos (decide_eq_true hlt)
  | leaf x => exact absurd rfl (h x)
  | internal c0 c1 => exact if_pos (decide_eq_true hlt)

/-- A wider path gives no trie (R120). -/
theorem insertWithin_ne_trie (hw : limit + 1 < path.w) (t r : Trie) : insertWithin limit t path sym ≠ .trie r := by
  by_cases ht : ∃ x, t = .leaf x
  · obtain ⟨x, rfl⟩ := ht
    rw [insertWithin_leaf]
    exact nofun
  · rw [insertWithin_of_lt sym hw (not_exists.1 ht)]
    exact nofun

end

/-! ### fromMap, one pair more -/

theorem trieFromMap_concat (limit : Nat) (m : List (BitValue × Byte)) (p : BitValue × Byte) :
    trieFromMap limit (m ++ [p]) = fromMapStep limit (trieFromMap limit m) p :=
  List.foldl_concat _ _ _ _

/-- A list that gives a trie has no path the extractor cannot take apart (R120). -/
theorem w_le_of_trieFromMap {limit : Nat} {m : List (BitValue × Byte)} {t : Trie}
    (h : trieFromMap limit m = .trie t) : ∀ p ∈ m, p.1.w ≤ limit + 1 := by
  induction m using List.reverseRecOn generalizing t with
  | nil => exact nofun
  | append_singleton m p ih =>
    rw [trieFromMap_concat] at h
    cases hm : trieFromMap limit m with
    | trie u =>
      rw [hm] at h
      have hp : p.1.w ≤ limit + 1 := by
        by_contra hw
        exact insertWithin_ne_trie p.2 (not_le.1 hw) u t h
      exact List.forall_mem_append.2 ⟨ih hm, List.forall_mem_singleton.2 hp⟩
    | reject => rw [hm] at h; cases h
    | tooWide => rw [hm] at h; cases h

/-! ### The trie that holds the pairs of a list -/

/-- The leaves of `t` are the pairs of `m`, and its nodes stand on the paths of `m` (R158). -/
structure HoldsPairs (t : Trie) (m : List (BitValue × Byte)) : Prop where
  leaves : ∀ q x, follow t q = .leaf x ↔ ∃ p ∈ m, pathBits p.1 = q ∧ p.2 = x
  nodes : ∀ q, follow t q ≠ .absent ↔ ∃ p ∈ m, q <+: pathBits p.1

theorem holdsPairs_nil : HoldsPairs .absent [] where
  leaves := by simp
  nodes := by simp

theorem HoldsPairs.concat {t : Trie} {m : List (BitValue × Byte)} (h : HoldsPairs t m) {p : BitValue × Byte}
    (hp : ¬ Blocked t (pathBits p.1)) : HoldsPairs (placeLeaf p.2 (pathBits p.1) t) (m ++ [p]) where
  leaves q x := by
    rw [follow_placeLeaf_eq_leaf_iff hp, h.leaves]
    simp [or_and_right, exists_or]
  nodes q := by
    rw [follow_placeLeaf_ne_absent_iff hp, h.nodes]
    simp [or_and_right, exists_or]

/-- What the trie of a list blocks: the paths that begin with a path of the list, or that one begins with (R158). -/
theorem HoldsPairs.blocked_iff {t : Trie} {m : List (BitValue × Byte)} (h : HoldsPairs t m) (path : List Bool) :
    Blocked t path ↔ ∃ p ∈ m, pathBits p.1 <+: path ∨ path <+: pathBits p.1 := by
  constructor
  · rintro (hnode | ⟨k, -, x, hleaf⟩)
    · obtain ⟨p, hp, hpre⟩ := (h.nodes path).1 hnode
      exact ⟨p, hp, .inr hpre⟩
    · obtain ⟨p, hp, hpath, -⟩ := (h.leaves _ x).1 hleaf
      exact ⟨p, hp, .inl (hpath ▸ List.take_prefix k path)⟩
  · rintro ⟨p, hp, hpre | hpre⟩
    · by_cases hlen : (pathBits p.1).length < path.length
      · exact .inr ⟨_, hlen, p.2, (h.leaves _ _).2 ⟨p, hp, List.prefix_iff_eq_take.1 hpre, rfl⟩⟩
      · have heq := hpre.eq_of_length_le (not_lt.1 hlen)
        exact .inl ((h.nodes path).2 ⟨p, hp, heq ▸ List.prefix_rfl⟩)
    · exact .inl ((h.nodes path).2 ⟨p, hp, hpre⟩)

theorem HoldsPairs.perm {t : Trie} {m m' : List (BitValue × Byte)} (h : HoldsPairs t m) (hperm : m.Perm m') :
    HoldsPairs t m' where
  leaves q x := by simpa only [hperm.mem_iff] using h.leaves q x
  nodes q := by simpa only [hperm.mem_iff] using h.nodes q

/-- A trie is fixed by where its leaves and its nodes stand (R140). -/
theorem eq_of_follow {t t' : Trie} (hleaf : ∀ q x, follow t q = .leaf x ↔ follow t' q = .leaf x)
    (hnode : ∀ q, follow t q ≠ .absent ↔ follow t' q ≠ .absent) : t = t' := by
  induction t generalizing t' with
  | absent => simpa [eq_comm] using hnode []
  | leaf x => simpa [eq_comm] using hleaf [] x
  | internal c0 c1 ih0 ih1 =>
    cases t' with
    | absent => simpa using hnode []
    | leaf x => simpa using hleaf [] x
    | internal d0 d1 =>
      rw [ih0 (fun q => hleaf (false :: q)) fun q => hnode (false :: q),
        ih1 (fun q => hleaf (true :: q)) fun q => hnode (true :: q)]

theorem HoldsPairs.unique {t t' : Trie} {m : List (BitValue × Byte)} (h : HoldsPairs t m) (h' : HoldsPairs t' m) :
    t = t' :=
  eq_of_follow (fun q x => (h.leaves q x).trans (h'.leaves q x).symm)
    fun q => (h.nodes q).trans (h'.nodes q).symm

theorem prefixFree_concat (m : List (BitValue × Byte)) (p : BitValue × Byte) :
    PrefixFree (m ++ [p]) ↔
      PrefixFree m ∧ ¬ ∃ q ∈ m, pathBits q.1 <+: pathBits p.1 ∨ pathBits p.1 <+: pathBits q.1 := by
  simp [PrefixFree, List.pairwise_append, not_or]

/-- With paths the extractor can take apart, fromMap gives the trie of a list in which no path begins with another,
and rejects any other list (R158). -/
theorem trieFromMap_spec {limit : Nat} {m : List (BitValue × Byte)} (hw : ∀ p ∈ m, p.1.w ≤ limit + 1) :
    (PrefixFree m ∧ ∃ t, trieFromMap limit m = .trie t ∧ HoldsPairs t m) ∨
    (¬ PrefixFree m ∧ trieFromMap limit m = .reject) := by
  induction m using List.reverseRecOn with
  | nil => exact .inl ⟨List.Pairwise.nil, .absent, rfl, holdsPairs_nil⟩
  | append_singleton m p ih =>
    obtain ⟨hm, hp⟩ := List.forall_mem_append.1 hw
    have hp := List.forall_mem_singleton.1 hp
    rw [prefixFree_concat, trieFromMap_concat]
    rcases ih hm with ⟨hfree, t, ht, hpairs⟩ | ⟨hconflict, ht⟩ <;> rw [ht]
    · rw [← hpairs.blocked_iff]
      by_cases hb : Blocked t (pathBits p.1)
      · exact .inr ⟨fun h => h.2 hb, insertWithin_of_blocked p.2 hp hb⟩
      · exact .inl ⟨⟨hfree, hb⟩, _, insertWithin_of_not_blocked p.2 hp hb, hpairs.concat hb⟩
    · exact .inr ⟨fun h => hconflict h.1, rfl⟩

theorem PrefixFree.perm {m m' : List (BitValue × Byte)} (h : PrefixFree m) (hperm : m.Perm m') : PrefixFree m' :=
  List.Pairwise.perm h hperm And.symm

/-- The order of a list whose paths can be taken apart does not matter: both orders give a trie or neither does, and
the trie is fixed by its pairs (R158). -/
theorem trieFromMap_perm {limit : Nat} {m m' : List (BitValue × Byte)} (hperm : m.Perm m')
    (hw : ∀ p ∈ m, p.1.w ≤ limit + 1) : trieFromMap limit m = trieFromMap limit m' := by
  have hw' : ∀ p ∈ m', p.1.w ≤ limit + 1 := fun p hp => hw p (hperm.mem_iff.2 hp)
  rcases trieFromMap_spec hw with ⟨hfree, t, ht, hpairs⟩ | ⟨hconflict, ht⟩
  · obtain ⟨-, t', ht', hpairs'⟩ := (trieFromMap_spec hw').resolve_right fun h => h.1 (hfree.perm hperm)
    rw [ht, ht', (hpairs.perm hperm).unique hpairs']
  · obtain ⟨-, ht'⟩ := (trieFromMap_spec hw').resolve_left fun h => hconflict (h.1.perm hperm.symm)
    rw [ht, ht']

/-! ### The rows run by themselves -/

/-- The three results of a construction show as three different outcomes (R120, R250). -/
theorem returnBuilt_injective {r r' : Built} {s : State} (h : returnBuilt r s = returnBuilt r' s) : r = r' := by
  cases r <;> cases r' <;> cases h <;> rfl

/-- The row on a list with one pair more, from what it gives without it (R158). -/
theorem exec_trieFrommap_concat {s : State} {m : List (BitValue × Byte)} {r : Built} (p : BitValue × Byte)
    (h : exec (.trieFrommap m) s = returnBuilt r s) :
    exec (.trieFrommap (m ++ [p])) s = returnBuilt (fromMapStep s.cfg.bvMax r p) s := by
  rw [exec, execTrieFrommap, trieFromMap_concat, returnBuilt_injective h]

/-- Settles O30: the order does not matter, and no list with a wider path gives a trie. -/
theorem fromMapDoesNotDependOnTheOrder : Obligations.FromMapDoesNotDependOnTheOrder := by
  unfold Obligations.FromMapDoesNotDependOnTheOrder
  refine fun s m m' => ⟨fun hperm hw => congrArg (returnBuilt · s) (trieFromMap_perm hperm hw), ?wide⟩
  case wide =>
    rintro ⟨p, hp, hw⟩
    rw [exec, execTrieFrommap]
    cases hm : trieFromMap s.cfg.bvMax m with
    | trie t => exact absurd (w_le_of_trieFromMap hm p hp) (not_le.2 hw)
    | reject => exact .inr rfl
    | tooWide => exact .inl rfl

/-- Settles O28: `insert` puts the leaf where nothing blocks its path; the width is looked at first, but for a
leaf. -/
theorem insertPlacesOneLeafOrRejects : Obligations.InsertPlacesOneLeafOrRejects := by
  unfold Obligations.InsertPlacesOneLeafOrRejects
  intro s t path sym
  rw [exec, execTrieInsert]
  refine
    ⟨fun hw =>
        ⟨fun hb => ?blocked, fun hb => ⟨_, ?free, follow_placeLeaf_self sym _ t, fun q x hq => ?others⟩⟩,
      fun hw => ⟨?leaf, fun ht => ?wide⟩⟩
  case blocked => rw [insertWithin_of_blocked sym hw hb]; rfl
  case free => rw [insertWithin_of_not_blocked sym hw hb]; rfl
  case others => rw [follow_placeLeaf_eq_leaf_iff hb, or_iff_left fun h => hq h.1.symm]
  case leaf => rintro x rfl; rw [insertWithin_leaf]; rfl
  case wide => rw [insertWithin_of_lt sym hw ht]; rfl

/-- Settles O29: a fold takes its last pair last, and its trie holds the pairs of a list without conflicts. -/
theorem fromMapFoldsTheInsertions : Obligations.FromMapFoldsTheInsertions := by
  unfold Obligations.FromMapFoldsTheInsertions
  intro s m path sym
  refine ⟨rfl, exec_trieFrommap_concat (r := .reject) (path, sym),
    exec_trieFrommap_concat (r := .tooWide) (path, sym), fun t => exec_trieFrommap_concat (r := .trie t) (path, sym),
    ?outcomes, fun hw => ?pairs⟩
  case outcomes =>
    rw [exec, execTrieFrommap]
    cases trieFromMap s.cfg.bvMax m with
    | trie t => exact .inr (.inr ⟨t, rfl⟩)
    | reject => exact .inl rfl
    | tooWide => exact .inr (.inl rfl)
  case pairs =>
    rw [exec, execTrieFrommap]
    rcases trieFromMap_spec hw with ⟨hfree, t, ht, hpairs⟩ | ⟨hconflict, ht⟩ <;> rw [ht]
    · exact ⟨fun _ => ⟨t, rfl, hpairs.leaves⟩, fun h => absurd hfree h⟩
    · exact ⟨fun h => absurd h hconflict, fun _ => rfl⟩

end Sys2Proof.Machine
end

section
/-! SUPPORT. The descent engine: what each of its steps does (R171 to R173), and that the steps of BODY_DESCEND compute
`descend` (R170, R179). -/

namespace Sys2Proof.Machine

/-! ### The refill (R172) -/

theorem refillBits_eq (s : State) : refillBits s = ⟨(windowAt s).toNat, 32⟩ := by
  rw [refillBits, bvMake_eq, BitVec.toNat_mod_cancel]

theorem refill_of_exhausted (use : BitValue → State → State) {s : State} (h : s.inLen < s.bodyCur + 4) :
    refill use s = raise .truncatedInput (.body s.bodyCur) s := by
  obtain ⟨-, he⟩ | ⟨hin, -⟩ := refill_cases use s
  · exact he
  · omega

theorem refill_of_window (use : BitValue → State → State) {s : State} (h : s.bodyCur + 4 ≤ s.inLen) :
    refill use s = noteRead (use (refillBits s) (advanceBody s)) := by
  obtain ⟨hout, -⟩ | ⟨-, he⟩ := refill_cases use s
  · omega
  · exact he

/-- Settles O31: the window below no pending bits is the window, or none is left. -/
theorem refillLoadsAWindowOrIsTruncated : Obligations.RefillLoadsAWindowOrIsTruncated := by
  unfold Obligations.RefillLoadsAWindowOrIsTruncated
  intro s c0 c1 hp hn hpend
  rw [exec_descRefill hp hn (congrArg BitValue.w hpend)]
  refine ⟨fun hin => ?_, fun hout => ?_⟩
  · rw [refill_of_window _ hin, noteRead_eq, advanceBody_pend, hpend, bvConcat_empty_left, refillBits_eq]
    rfl
  · rw [refill_of_exhausted _ hout]
    rfl

/-! ### The branch (R173) -/

theorem branch_of_absent {b : Bool} {s : State} (h : childOf s.node b = .absent) :
    branch b s =
      raise .corruptStream (.absentChild s.node b (bvDropMsb s.pend)) (setPend (bvDropMsb s.pend) s) := by
  obtain ⟨-, hbranch⟩ | ⟨hpresent, -⟩ := branch_cases b s
  · exact hbranch
  · exact absurd h hpresent

/-- Settles O33: the bit picks the child, and is dropped whether or not the child is there. -/
theorem branchFollowsTheBitOrIsCorrupt : Obligations.BranchFollowsTheBitOrIsCorrupt := by
  unfold Obligations.BranchFollowsTheBitOrIsCorrupt
  intro s c0 c1 b hp hn hw hbit
  have hchild : childOf s.node b = if b then c1 else c0 := by rw [hn]; rfl
  rw [exec_descBranch hp hn hw, bvMsb_eq s.pend hw, hbit, ← hchild]
  refine ⟨fun hpresent => ?_, fun habsent => ?_⟩
  · rw [branch_of_present hpresent]
  · rw [branch_of_absent habsent, bvDropMsb_eq]
    rfl

/-! ### The leaf step (R171) -/

/-- A leaf step is the emission of its symbol, then BODY_CHECK. -/
theorem exec_descLeaf_of_emit {s t : State} {sym : Byte} (hp : s.phase = .bodyDescend) (hn : s.node = .leaf sym)
    (h : emit sym s = .next t) : exec .descLeaf s = .next (toPhase .bodyCheck t) := by
  simp only [exec, execDescLeaf, hn, leafStep, hp, and_self, decide_true, if_true, h]

theorem wideFault_eq_false {sym : Byte} {s : State} (h : s.cfg.widePolicy = .truncate ∨ sym.toNat ≤ 0xF) :
    wideFault sym s = false := by
  refine decide_eq_false fun ⟨hfault, hwide⟩ => ?_
  rcases h with htruncate | hnarrow
  · rw [htruncate] at hfault; cases hfault
  · omega

theorem emit_of_byte8 {s : State} (hm : s.mode = .byte8) (sym : Byte) : emit sym s = .next (putByte sym s) := by
  simp only [emit, hm, emit8]

theorem emit_of_firstNibble {s : State} {sym : Byte} (hwide : wideFault sym s = false) (hm : s.mode = .nibble4)
    (hf : s.nibFull = false) : emit sym s = .next (holdNibble sym s) := by
  simp only [emit, hm, hf, emit4hi, hwide, Bool.false_eq_true, if_false]

theorem emit_of_secondNibble {s : State} {sym : Byte} (hwide : wideFault sym s = false) (hm : s.mode = .nibble4)
    (hf : s.nibFull = true) : emit sym s = .next (putByte (s.nibHi ||| sym) (releaseNibble s)) := by
  simp only [emit, hm, hf, emit4lo, hwide, Bool.false_eq_true, if_false]

/-- Settles O35: one case for each way of emitting. -/
theorem leafEmitsItsSymbol : Obligations.LeafEmitsItsSymbol := by
  unfold Obligations.LeafEmitsItsSymbol
  intro s sym hp hn
  refine ⟨fun hm => ?_, fun hlet => ⟨fun hm hf => ?_, fun hm hf => ?_⟩⟩
  · exact exec_descLeaf_of_emit hp hn (emit_of_byte8 hm sym)
  · exact exec_descLeaf_of_emit hp hn (emit_of_firstNibble (wideFault_eq_false hlet) hm hf)
  · exact exec_descLeaf_of_emit hp hn (emit_of_secondNibble (wideFault_eq_false hlet) hm hf)

/-! ### The enabled step at an internal node (R190) -/

section
variable {s : State} {c0 c1 : Trie} (hu : Undisturbed s) (hp : s.phase = .bodyDescend)
  (hn : s.node = .internal c0 c1)
include hu hp hn

theorem step_refill (hw : s.pend.w = 0) :
    step s = .next (refill (fun win t => setPend (bvConcat t.pend win) t) s) := by
  have hown : ownStep s = some .descRefill := by simp only [ownStep, hp, hn, hw, if_true]
  rw [step_own hu hown, exec_descRefill hp hn hw]

theorem step_branch (hw : 1 ≤ s.pend.w) : step s = .next (branch (bvMsb s.pend) s) := by
  have hown : ownStep s = some .descBranch := by
    simp only [ownStep, hp, hn, if_neg (Nat.one_le_iff_ne_zero.1 hw)]
  rw [step_own hu hown, exec_descBranch hp hn hw]

end

/-! ### The steps of a descent against descend -/

/-- `s` with its descent at the node `n`, the pending bits `p` and the next window's address `cur`. -/
def descentAt (s : State) (n : Trie) (p : BitValue) (cur : Nat) : State :=
  { s with node := n, pend := p, bodyCur := cur }

/-- The state `t` is where a descent in `s` ends that gives `d`: at the leaf of its symbol and otherwise as `s`, or in
FAILED with its error (R175, R179). -/
def EndsDescent (s t : State) : Descended → Prop
  | .symbol sym p cur => t = descentAt s (.leaf sym) p cur
  | .error e => t.phase = .failed ∧ t.err = e

/-- Some steps take `u` to the end of a descent in `s` that gives `d`, and OUT and `emitted` stay those of `s`. -/
def StepsGive (s u : State) (d : Descended) : Prop :=
  ∃ k t, run k u = .next t ∧ t.out = s.out ∧ t.emitted = s.emitted ∧ EndsDescent s t d

/-- Steps before a descent's end add to those that reach it. -/
theorem StepsGive.of_run {s u v : State} {d : Descended} {j : Nat} (hj : run j u = .next v) (h : StepsGive s v d) :
    StepsGive s u d := by
  obtain ⟨k, t, hk, hend⟩ := h
  exact ⟨j + k, t, (run_add hj k).trans hk, hend⟩

theorem run_one {s t : State} (h : step s = .next t) : run 1 s = .next t := run_succ h 0

/-- A raise ends a descent where it stands. -/
theorem stepsGive_error {s u v : State} {e : ErrKind} {info : ErrInfo} (h : step u = .next (raise e info v))
    (hout : v.out = s.out) (hemitted : v.emitted = s.emitted) : StepsGive s u (.error e) :=
  ⟨1, raise e info v, run_one h, hout, hemitted, rfl, rfl⟩

/-- The descent of a present node goes on at the child its next bit selects (R170). -/
theorem descend_internal_eq {c : Config} {rd : Nat → Byte} {len : Nat} {c0 c1 : Trie} {p q : BitValue}
    {cur mid : Nat} (hpull : pullBits c rd len p cur = some (q, mid)) :
    descend c rd len (.internal c0 c1) p cur =
      descend c rd len (childOf (.internal c0 c1) (bvMsb q)) (bvDropMsb q) mid := by
  rw [descend, hpull]
  dsimp only
  cases bvMsb q with
  | false => rfl
  | true => rfl

section
variable {s : State} (hu : Undisturbed s) (hstable : s.inStable = true) (hp : s.phase = .bodyDescend)
include hu hp

/-- Without a window to fetch the step raises TruncatedInput (R199). -/
theorem stepsGive_truncated {c0 c1 : Trie} {p : BitValue} {cur : Nat}
    (hpull : pullBits s.cfg (readIn s []) s.inLen p cur = none) :
    StepsGive s (descentAt s (.internal c0 c1) p cur) (.error .truncatedInput) := by
  unfold pullBits at hpull
  split at hpull
  next hw =>
    split at hpull
    next hlen =>
      refine stepsGive_error (v := descentAt s (.internal c0 c1) p cur) (info := .body cur) ?_ rfl rfl
      rw [step_refill (s := descentAt s (.internal c0 c1) p cur) hu hp rfl hw, refill_of_exhausted _ hlen]
      rfl
    next => cases hpull
  next => cases hpull

include hstable in
/-- The bits a branch finds are there after a refill, or without one (R172, R178). -/
theorem run_pullBits (c0 c1 : Trie) {p q : BitValue} {cur mid : Nat}
    (hpull : pullBits s.cfg (readIn s []) s.inLen p cur = some (q, mid)) :
    ∃ j, run j (descentAt s (.internal c0 c1) p cur) = .next (descentAt s (.internal c0 c1) q mid) := by
  unfold pullBits at hpull
  split at hpull
  next hw =>
    split at hpull
    next => cases hpull
    next hlen =>
      cases hpull
      refine ⟨1, run_one ?_⟩
      rw [step_refill (s := descentAt s (.internal c0 c1) p cur) hu hp rfl hw, refill_of_window _ (not_lt.1 hlen)]
      exact congrArg Host.Outcome.next (noteRead_stable _ hstable)
  next => cases hpull; exact ⟨0, rfl⟩

include hstable in
/-- From a present node the steps compute `descend` (R179), by induction on the node. -/
theorem stepsGive_descend {n : Trie} (hn : n ≠ .absent) (p : BitValue) (cur : Nat) :
    StepsGive s (descentAt s n p cur) (descend s.cfg (readIn s []) s.inLen n p cur) := by
  induction n generalizing p cur with
  | absent => exact absurd rfl hn
  | leaf sym => exact ⟨0, _, rfl, rfl, rfl, rfl⟩
  | internal c0 c1 ih0 ih1 =>
    have ih (b : Bool) : childOf (.internal c0 c1) b ≠ .absent → ∀ q mid,
        StepsGive s (descentAt s (childOf (.internal c0 c1) b) q mid)
          (descend s.cfg (readIn s []) s.inLen (childOf (.internal c0 c1) b) q mid) := by
      cases b with
      | false => exact ih0
      | true => exact ih1
    cases hpull : pullBits s.cfg (readIn s []) s.inLen p cur with
    | none =>
      rw [descend, hpull]
      exact stepsGive_truncated hu hp hpull
    | some pulled =>
      obtain ⟨q, mid⟩ := pulled
      rw [descend_internal_eq hpull]
      obtain ⟨j, hj⟩ := run_pullBits hu hstable hp c0 c1 hpull
      refine .of_run hj ?_
      have hstep := step_branch (s := descentAt s (.internal c0 c1) q mid) hu hp rfl (pullBits_eq_some hpull).1
      obtain ⟨habsent, hraise⟩ | ⟨hpresent, hmove⟩ := branch_cases (bvMsb q) (descentAt s (.internal c0 c1) q mid)
      · rw [show childOf (.internal c0 c1) (bvMsb q) = .absent from habsent, descend]
        exact stepsGive_error (hstep.trans (congrArg _ hraise)) rfl rfl
      · exact .of_run (run_one (hstep.trans (congrArg _ hmove))) (ih (bvMsb q) hpresent (bvDropMsb q) mid)

end

/-- Settles O38: the state is its own descent's start. -/
theorem stepsComputeTheDescent : Obligations.StepsComputeTheDescent := by
  unfold Obligations.StepsComputeTheDescent
  intro s hu hstable hp hn
  exact stepsGive_descend hu hstable hp hn s.pend s.bodyCur

end Sys2Proof.Machine
end

section
/-! SUPPORT. The stream decoder's control steps (R190 to R197): which step is enabled, what it leaves, and where it
takes the phase. -/

namespace Sys2Proof.Machine

/-! ### The enabled step (R190) -/

section
variable {s : State} (hu : Undisturbed s)
include hu

theorem step_readHeader (hp : s.phase = .readHeader) : step s = .next (readHeader s) := by
  rw [step_own hu (by rw [ownStep, hp]), exec_sdReadheader hp]

theorem step_readTree (hp : s.phase = .readTree) : step s = .next (readTree s) := by
  rw [step_own hu (by rw [ownStep, hp]), exec_sdReadtree hp]

theorem step_check (hp : s.phase = .bodyCheck) : step s = .next (checkDone s) := by
  rw [step_own hu (by rw [ownStep, hp]), exec_sdCheck hp]

theorem step_leaf {sym : Byte} (hp : s.phase = .bodyDescend) (hn : s.node = .leaf sym) :
    step s = exec .descLeaf s :=
  step_own hu (by simp only [ownStep, hp, hn])

end

/-- Settles O8, phase by phase. -/
theorem stepRunsTheEnabledStep : Obligations.StepRunsTheEnabledStep := by
  unfold Obligations.StepRunsTheEnabledStep
  intro s hu
  refine ⟨fun hp => ?_, fun hp => ?_, fun hp => ?_, fun sym hp hn => step_leaf hu hp hn,
    fun c0 c1 hp hn hw => ?_, fun c0 c1 hp hn hw => ?_, ?_⟩
  · rw [step_readHeader hu hp, exec_sdReadheader hp]
  · rw [step_readTree hu hp, exec_sdReadtree hp]
  · rw [step_check hu hp, exec_sdCheck hp]
  · rw [step_refill hu hp hn hw, exec_descRefill hp hn hw]
  · rw [step_branch hu hp hn hw, exec_descBranch hp hn hw]
  · rintro (hp | hp | hp) <;> exact step_quiet hu (by rw [ownStep, hp]) (by rw [hp]; rfl)

/-- Settles O44, by the two ends of the check. -/
theorem checkEndsTheCallOrStartsADescent : Obligations.CheckEndsTheCallOrStartsADescent := by
  unfold Obligations.CheckEndsTheCallOrStartsADescent
  intro s hp
  rw [exec_sdCheck hp]
  exact ⟨fun hd => congrArg _ (if_pos hd), fun hd => congrArg _ (if_neg hd)⟩

/-- Settles O43: the root is absent exactly when IN ends before it, and otherwise body init follows. -/
theorem readTreeBuildsTheTrieOrIsCorrupt : Obligations.ReadTreeBuildsTheTrieOrIsCorrupt := by
  unfold Obligations.ReadTreeBuildsTheTrieOrIsCorrupt
  intro s hp hend
  obtain ⟨hroot, -⟩ := rootIsAbsentExactlyWhenInIsShort s hend
  rw [exec_sdReadtree hp]
  constructor
  · intro hlong
    have hpresent : decodeRoot s ≠ .absent := fun habsent => by
      have := hroot.1 habsent
      omega
    obtain ⟨habsent, -⟩ | ⟨-, htree⟩ := readTree_cases s
    · exact absurd habsent hpresent
    · rw [htree, noteRead_eq]
      rfl
  · intro hshort
    obtain ⟨-, htree⟩ | ⟨hpresent, -⟩ := readTree_cases s
    · rw [htree, noteRead_eq]
      rfl
    · exact absurd (hroot.2 hshort) hpresent

/-- Settles O40: a start looks at the phase first, then at the length. -/
theorem startBeginsACallOrIsIgnored : Obligations.StartBeginsACallOrIsIgnored := by
  unfold Obligations.StartBeginsACallOrIsIgnored
  intro s len
  constructor
  · intro hp
    have hidle : ¬ busy s.phase = true := by rcases hp with hp | hp | hp <;> rw [hp] <;> decide
    rw [exec, execSdStart, if_neg hidle]
    exact ⟨fun hlen => if_pos hlen, fun hlen => if_neg (not_le.2 hlen)⟩
  · intro hp
    have hbusy : busy s.phase = true := by rcases hp with hp | hp | hp | hp <;> rw [hp] <;> decide
    exact if_pos hbusy

/-! ### The header (R192 to R194) -/

/-- The declared length is little-endian (R55). -/
theorem lengthOf_eq (b1 b2 b3 : Byte) :
    lengthOf b1 b2 b3 = BitVec.ofNat 24 (b1.toNat + 256 * b2.toNat + 65536 * b3.toNat) := by
  apply BitVec.eq_of_toNat_eq
  have h1 := b1.isLt
  have h2 := b2.isLt
  have h3 := b3.isLt
  rw [lengthOf, BitVec.toNat_append, BitVec.toNat_append, BitVec.toNat_ofNat,
    ← Nat.shiftLeft_add_eq_or_of_lt h2, ← Nat.shiftLeft_add_eq_or_of_lt h1, Nat.shiftLeft_eq, Nat.shiftLeft_eq]
  omega

/-- The mode that a magic byte selects, as the obligations say it (R82). -/
theorem magicMode_of_selects {c : Config} {b : Byte} {m : Mode}
    (h : b = c.magic4 ∧ m = .nibble4 ∨ b = c.magic8 ∧ c.magic8 ≠ c.magic4 ∧ m = .byte8) :
    magicMode c b = some m := by
  rcases h with ⟨rfl, rfl⟩ | ⟨rfl, hne, rfl⟩
  · exact magicMode_magic4 c
  · exact magicMode_magic8 hne

section
variable {s : State}

theorem readHeader_of_empty (h : s.inLen < 1) : readHeader s = raise .truncatedInput .header s := if_pos h

theorem readHeader_of_badMagic (h : 1 ≤ s.inLen) (hm : magicMode s.cfg (readIn s [] 0) = none) :
    readHeader s = noteRead (raise .unrecognizedFormat (.magic (readIn s [] 0)) s) := by
  rw [readHeader, if_neg (not_lt.2 h), hm]

theorem readHeader_of_magic {m : Mode} (h : 1 ≤ s.inLen) (hm : magicMode s.cfg (readIn s [] 0) = some m) :
    readHeader s = noteRead (readFields (setMode m s)) := by
  rw [readHeader, if_neg (not_lt.2 h), hm]

theorem readFields_of_short (h : s.inLen < 5) : readFields s = raise .truncatedInput .header s := if_pos h

theorem readFields_of_long (h : 5 ≤ s.inLen) :
    readFields s = toPhase .readTree (setSelector (readIn s [] 4) (setLength (headerLength s) s)) :=
  if_neg (not_lt.2 h)

end

/-- Settles O42, in the order of the checks. -/
theorem headerErrorsInTheirOrder : Obligations.HeaderErrorsInTheirOrder := by
  unfold Obligations.HeaderErrorsInTheirOrder
  intro s hp
  rw [exec_sdReadheader hp]
  refine ⟨fun h0 => ?_, fun h1 h4 h8 => ?_, fun m h1 h5 hm => ?_⟩
  · rw [readHeader_of_empty h0]
    rfl
  · rw [readHeader_of_badMagic h1 (magicMode_of_neither h4 h8), noteRead_eq]
    rfl
  · rw [readHeader_of_magic h1 (magicMode_of_selects hm), readFields_of_short (s := setMode m s) h5, noteRead_eq]
    rfl

/-- Settles O41: the fields of a header that is long enough. -/
theorem goodHeaderIsRead : Obligations.GoodHeaderIsRead := by
  unfold Obligations.GoodHeaderIsRead
  intro s m hp h5 hm
  rw [exec_sdReadheader hp, readHeader_of_magic (by omega) (magicMode_of_selects hm),
    readFields_of_long (s := setMode m s) h5, noteRead_eq, setSelector_eq, headerLength, lengthOf_eq]
  rfl

/-! ### The phase (R190) -/

theorem readHeader_phase (s : State) : (readHeader s).phase = .readTree ∨ (readHeader s).phase = .failed := by
  rcases readHeader_cases s with ⟨-, e⟩ | ⟨-, -, e⟩ | ⟨m, -, -, -, e⟩ | ⟨m, -, -, e⟩ <;> rw [e] <;> simp

theorem readTree_phase (s : State) : (readTree s).phase = .bodyCheck ∨ (readTree s).phase = .failed := by
  rcases readTree_cases s with ⟨-, e⟩ | ⟨-, e⟩ <;> rw [e] <;> simp

theorem checkDone_phase (s : State) :
    (checkDone s).phase = if s.emitted = s.declLen then .done else .bodyDescend := by
  rcases checkDone_cases s with ⟨hd, e⟩ | ⟨hd, e⟩
  · rw [e, if_pos hd]; rfl
  · rw [e, if_neg hd]; rfl

theorem branch_phase (b : Bool) (s : State) : (branch b s).phase = s.phase ∨ (branch b s).phase = .failed := by
  rcases branch_cases b s with ⟨-, e⟩ | ⟨-, e⟩ <;> rw [e] <;> simp

theorem refill_phase (s : State) :
    (refill (fun win t => setPend (bvConcat t.pend win) t) s).phase = s.phase ∨
      (refill (fun win t => setPend (bvConcat t.pend win) t) s).phase = .failed := by
  rcases refill_cases (fun win t => setPend (bvConcat t.pend win) t) s with ⟨-, e⟩ | ⟨-, e⟩ <;> rw [e] <;> simp

/-- Settles O9: the enabled step by its phase, and none in a quiet phase. -/
theorem phasesFollowTheTransitionTable : Obligations.PhasesFollowTheTransitionTable := by
  unfold Obligations.PhasesFollowTheTransitionTable
  intro s t hu h
  rw [step_of_own hu.1 hu.2] at h
  rcases fetchOwn_next h with ⟨i, ho, he⟩ | ⟨-, hquiet, rfl⟩
  · rcases ownStep_cases ho with ⟨hp, rfl⟩ | ⟨hp, rfl⟩ | ⟨hp, rfl⟩ | ⟨hp, -, rfl⟩ |
      ⟨hp, ⟨c0, c1, hn⟩, hw, rfl⟩ | ⟨hp, ⟨c0, c1, hn⟩, hw, rfl⟩ <;> rw [hp]
    · cases (exec_sdReadheader hp).symm.trans he
      exact readHeader_phase s
    · cases (exec_sdReadtree hp).symm.trans he
      exact readTree_phase s
    · cases (exec_sdCheck hp).symm.trans he
      exact checkDone_phase s
    · obtain ⟨-, u, -, -, -, rfl⟩ := execDescLeaf_next he
      exact .inl rfl
    · cases (exec_descRefill hp hn hw).symm.trans he
      exact .inr (hp ▸ refill_phase s)
    · cases (exec_descBranch hp hn hw).symm.trans he
      exact .inr (hp ▸ branch_phase _ s)
  · cases hp : t.phase with
    | idle | done | failed => rfl
    | _ => simp [hp, busy] at hquiet

end Sys2Proof.Machine
end

section
/-! SUPPORT. The refill and the emission rows by themselves (R199 to R204), where the model fault WideNibble can come
from, and the rows that are refused outside their phase (R190). -/

namespace Sys2Proof.Machine

/-! ### The refill by itself (R199) -/

/-- Settles O32: SD.REFILL is enabled where DESC.REFILL is, and the refill fetches the window or finds none. -/
theorem sdRefillReturnsTheWindow : Obligations.SdRefillReturnsTheWindow := by
  unfold Obligations.SdRefillReturnsTheWindow
  intro s c0 c1 hp hn hw
  have hexec : exec .sdRefill s = .next (refill (fun win t => setRet (.bits win) t) s) :=
    if_pos ((refillDue_iff s).2 ⟨hp, ⟨c0, c1, hn⟩, hw⟩)
  rw [hexec]
  refine ⟨fun hin => ?_, fun hout => ?_⟩
  · rw [refill_of_window _ hin, noteRead_eq, refillBits_eq]
    rfl
  · rw [refill_of_exhausted _ hout]
    rfl

/-! ### The emission rows by themselves (R201 to R203) -/

theorem leafStep_iff (sym : Byte) (s : State) :
    leafStep sym s = true ↔ s.phase = .bodyDescend ∧ s.node = .leaf sym := by
  simp [leafStep]

section
variable {s : State} {sym : Byte} (hp : s.phase = .bodyDescend) (hn : s.node = .leaf sym)
include hp hn

/-- Each emission row is the emission of the leaf step, in its mode and its half of a pair (R171). -/
theorem exec_sdEmit8 (hm : s.mode = .byte8) : exec (.sdEmit8 sym) s = emit sym s := by
  have hleaf := (leafStep_iff sym s).2 ⟨hp, hn⟩
  rw [exec, execSdEmit8, if_pos ⟨hleaf, hm⟩, emit, hm]

theorem exec_sdEmit4hi (hm : s.mode = .nibble4) (hf : s.nibFull = false) :
    exec (.sdEmit4hi sym) s = emit sym s := by
  have hleaf := (leafStep_iff sym s).2 ⟨hp, hn⟩
  rw [exec, execSdEmit4hi, if_pos ⟨hleaf, hm, hf⟩, emit, hm, hf]

theorem exec_sdEmit4lo (hm : s.mode = .nibble4) (hf : s.nibFull = true) :
    exec (.sdEmit4lo sym) s = emit sym s := by
  have hleaf := (leafStep_iff sym s).2 ⟨hp, hn⟩
  rw [exec, execSdEmit4lo, if_pos ⟨hleaf, hm, hf⟩, emit, hm, hf]

end

/-- Settles O36, one row for each way of emitting. -/
theorem emissionRowsWriteTheirByteOrNibble : Obligations.EmissionRowsWriteTheirByteOrNibble := by
  unfold Obligations.EmissionRowsWriteTheirByteOrNibble
  intro s sym hp hn
  refine ⟨fun hm => ?_, fun hlet => ⟨fun hm hf => ?_, fun hm hf => ?_⟩⟩
  · exact (exec_sdEmit8 hp hn hm).trans (emit_of_byte8 hm sym)
  · exact (exec_sdEmit4hi hp hn hm hf).trans (emit_of_firstNibble (wideFault_eq_false hlet) hm hf)
  · exact (exec_sdEmit4lo hp hn hm hf).trans (emit_of_secondNibble (wideFault_eq_false hlet) hm hf)

/-! ### The model fault WideNibble (R204) -/

theorem wideFault_iff (sym : Byte) (s : State) :
    wideFault sym s = true ↔ s.cfg.widePolicy = .fault ∧ 0xF < sym.toNat := by
  simp [wideFault]

theorem emit_of_wide {s : State} {sym : Byte} (hwide : wideFault sym s = true) (hm : s.mode = .nibble4) :
    emit sym s = .fault .wideNibble := by
  unfold emit
  rw [hm]
  cases s.nibFull with
  | false => exact if_pos hwide
  | true => exact if_pos hwide

/-- A symbol is emitted, or it is a wide one in 4-bit mode under FAULT. -/
theorem emit_cases (sym : Byte) (s : State) :
    (s.mode = .nibble4 ∧ wideFault sym s = true ∧ emit sym s = .fault .wideNibble) ∨
      ∃ u, emit sym s = .next u := by
  cases hm : s.mode with
  | byte8 => exact .inr ⟨_, emit_of_byte8 hm sym⟩
  | nibble4 =>
    cases hwide : wideFault sym s with
    | true => exact .inl ⟨rfl, rfl, emit_of_wide hwide hm⟩
    | false =>
      cases hf : s.nibFull with
      | false => exact .inr ⟨_, emit_of_firstNibble hwide hm hf⟩
      | true => exact .inr ⟨_, emit_of_secondNibble hwide hm hf⟩

/-- A leaf step is a fault where its emission is. -/
theorem exec_descLeaf_of_fault {s : State} {sym : Byte} {f : Fault} (hp : s.phase = .bodyDescend)
    (hn : s.node = .leaf sym) (h : emit sym s = .fault f) : exec .descLeaf s = .fault f := by
  simp only [exec, execDescLeaf, hn, leafStep, hp, and_self, decide_true, if_true, h]

/-- Where R204 makes a leaf step the model fault: a wide symbol in 4-bit mode under FAULT. -/
def AtWideLeaf (s : State) : Prop :=
  s.cfg.widePolicy = .fault ∧ s.mode = .nibble4 ∧ s.phase = .bodyDescend ∧
    ∃ sym, s.node = .leaf sym ∧ 0xF < sym.toNat

theorem atWideLeaf_of_wideFault {s : State} {sym : Byte} (hp : s.phase = .bodyDescend) (hn : s.node = .leaf sym)
    (hm : s.mode = .nibble4) (hwide : wideFault sym s = true) : AtWideLeaf s := by
  obtain ⟨hpolicy, hsym⟩ := (wideFault_iff sym s).1 hwide
  exact ⟨hpolicy, hm, hp, sym, hn, hsym⟩

/-- The outcome of a row that never faults. -/
def Faultless (o : Outcome) : Prop := ∀ f, o ≠ .fault f

theorem faultless_next (t : State) : Faultless (.next t) := nofun

/-- The shape of every row with a condition: it runs or is refused. -/
theorem faultless_guarded {p : Prop} [Decidable p] (t : State) (r : Refusal) :
    Faultless (if p then .next t else .refused r) := by
  split <;> exact nofun

theorem faultless_inHeader (s t : State) : Faultless (inHeader s t) := faultless_guarded t _

theorem faultless_returnBits (x : BitValue) (s : State) : Faultless (returnBits x s) := faultless_guarded _ _

theorem faultless_returnBuilt (r : Built) (s : State) : Faultless (returnBuilt r s) := by
  cases r <;> exact nofun

theorem faultless_hdrBadmagic (m : Byte) (s : State) : Faultless (exec (.hdrBadmagic m) s) := by
  cases hm : magicMode s.cfg m with
  | none => rw [exec, execHdrBadmagic, hm]; exact faultless_inHeader _ _
  | some mode => rw [exec_hdrBadmagic_of_some hm]; exact faultless_inHeader _ _

theorem faultless_bvDropmsb (x : BitValue) (s : State) : Faultless (exec (.bvDropmsb x) s) := by
  by_cases hw : 1 ≤ x.w
  · rw [exec_bvDropmsb_of_pos hw]; exact faultless_returnBits _ _
  · rw [exec, execBvDropmsb, if_neg hw]; exact faultless_next _

theorem faultless_sdStart (len : Nat) (s : State) : Faultless (exec (.sdStart len) s) := by
  rw [exec, execSdStart]
  split
  · exact faultless_next s
  · exact faultless_guarded _ _

section
variable {s : State} {f : Fault}

theorem atWideLeaf_of_descLeaf (h : exec .descLeaf s = .fault f) : AtWideLeaf s := by
  change execDescLeaf s = .fault f at h
  unfold execDescLeaf at h
  split at h
  · cases h
  · cases h
  · next sym hn =>
    split at h
    · next hleaf =>
      obtain ⟨hp, -⟩ := (leafStep_iff sym s).1 hleaf
      rcases emit_cases sym s with ⟨hm, hwide, -⟩ | ⟨u, hu⟩
      · exact atWideLeaf_of_wideFault hp hn hm hwide
      · rw [hu] at h; cases h
    · cases h

/-- The shape of SD.EMIT4HI and SD.EMIT4LO: under the leaf step's condition a wide symbol is a fault. -/
theorem atWideLeaf_of_nibbleRow {sym : Byte} {full : Bool} {t : State}
    (h : (if leafStep sym s ∧ s.mode = .nibble4 ∧ s.nibFull = full then
        (if wideFault sym s then .fault .wideNibble else .next t)
      else .refused .notEnabled : Outcome) = .fault f) : AtWideLeaf s := by
  split at h
  · next hc =>
    obtain ⟨hleaf, hm, -⟩ := hc
    obtain ⟨hp, hn⟩ := (leafStep_iff sym s).1 hleaf
    split at h
    · next hwide => exact atWideLeaf_of_wideFault hp hn hm hwide
    · cases h
  · cases h

end

/-- Any instruction that faults stands at a wide leaf: the three rows that emit a nibble, and no other. -/
theorem atWideLeaf_of_fault {i : Instr} {s : State} {f : Fault} (h : exec i s = .fault f) : AtWideLeaf s := by
  cases i
  case descLeaf => exact atWideLeaf_of_descLeaf h
  case sdEmit4hi | sdEmit4lo => exact atWideLeaf_of_nibbleRow h
  case hdrMagic4 | hdrMagic8 | hdrLen | treeSel => exact absurd h (faultless_inHeader _ _ f)
  case hdrBadmagic m => exact absurd h (faultless_hdrBadmagic m s f)
  case treeNode | treeLeaf | bodyWindow | bvMatches | bvMsb | tdDecodenode | sdReset =>
    exact absurd h (faultless_next _ f)
  case bvMake | bvConcat | bvShr | bvShl => exact absurd h (faultless_returnBits _ _ f)
  case bvDropmsb x => exact absurd h (faultless_bvDropmsb x s f)
  case trieInsert | trieFrommap => exact absurd h (faultless_returnBuilt _ _ f)
  case sdStart len => exact absurd h (faultless_sdStart len s f)
  case bodyBit0 | bodyBit1 | descRefill | descBranch | sdReadheader | sdReadtree | sdCheck | sdRefill | sdEmit8 =>
    exact absurd h (faultless_guarded _ _ f)

/-- Settles O37: the three rows that emit a nibble fault at a wide leaf, and every fault comes from there. -/
theorem wideNibbleFaultsExactlyUnderItsPolicy : Obligations.WideNibbleFaultsExactlyUnderItsPolicy := by
  unfold Obligations.WideNibbleFaultsExactlyUnderItsPolicy
  refine fun s => ⟨fun sym hp hn hm hsym hpolicy => ?_, fun i h => atWideLeaf_of_fault h⟩
  have hemit := emit_of_wide ((wideFault_iff sym s).2 ⟨hpolicy, hsym⟩) hm
  exact ⟨exec_descLeaf_of_fault hp hn hemit, fun hf => (exec_sdEmit4hi hp hn hm hf).trans hemit,
    fun hf => (exec_sdEmit4lo hp hn hm hf).trans hemit⟩

/-! ### Rows outside their phase (R190) -/

theorem inHeader_of_ne {s : State} (h : s.phase ≠ .readHeader) (t : State) :
    inHeader s t = .refused .notEnabled := if_neg h

theorem exec_hdrBadmagic_of_ne {s : State} (h : s.phase ≠ .readHeader) (m : Byte) :
    exec (.hdrBadmagic m) s = .refused .notEnabled := by
  rw [exec, execHdrBadmagic]
  cases magicMode s.cfg m with
  | none => exact inHeader_of_ne h _
  | some mode => exact inHeader_of_ne h _

section
variable {s : State} (h : s.phase ≠ .bodyDescend)
include h

theorem refillDue_of_ne : ¬ refillDue s = true := fun hd => h ((refillDue_iff s).1 hd).1

theorem bitDue_of_ne : ¬ bitDue s = true := fun hd => h ((bitDue_iff s).1 hd).1

theorem leafStep_of_ne (sym : Byte) : ¬ leafStep sym s = true := fun hl => h ((leafStep_iff sym s).1 hl).1

theorem exec_descLeaf_of_ne : exec .descLeaf s = .refused .notEnabled := by
  rw [exec, execDescLeaf]
  cases s.node with
  | absent => rfl
  | internal c0 c1 => rfl
  | leaf sym => exact if_neg (leafStep_of_ne h sym)

end

/-- Settles O19: the condition of each row asks for its phase. -/
theorem stepsAreNotEnabledOutsideTheirPhase : Obligations.StepsAreNotEnabledOutsideTheirPhase := by
  unfold Obligations.StepsAreNotEnabledOutsideTheirPhase
  intro s m sel sym len
  refine ⟨fun h => ?header, fun h => if_neg h, fun h => if_neg h, fun h => ?descent⟩
  case header =>
    exact ⟨inHeader_of_ne h _, inHeader_of_ne h _, exec_hdrBadmagic_of_ne h m, inHeader_of_ne h _,
      inHeader_of_ne h _, if_neg h⟩
  case descent =>
    have hrefill := refillDue_of_ne h
    have hbit := bitDue_of_ne h
    have hleaf := leafStep_of_ne h sym
    exact ⟨exec_descLeaf_of_ne h, if_neg hrefill, if_neg hbit, if_neg fun hc => hbit hc.1,
      if_neg fun hc => hbit hc.1, if_neg hrefill, if_neg fun hc => hleaf hc.1, if_neg fun hc => hleaf hc.1,
      if_neg fun hc => hleaf hc.1⟩

end Sys2Proof.Machine
end

section
/-! SUPPORT. A call computes the reference function `decode(IN, L)` (R206): its loop, symbol by symbol, is the block's
way from BODY_CHECK through a descent and back. -/

namespace Sys2Proof.Machine

/-! ### The reference, case by case -/

section
variable {c : Config} {rd : Nat → Byte} {len : Nat}

theorem decodeCall_of_empty (h : len < 1) : decodeCall c rd len = .err .truncatedInput := if_pos h

theorem decodeCall_of_badMagic (h : 1 ≤ len) (hm : magicMode c (rd 0) = none) :
    decodeCall c rd len = .err .unrecognizedFormat := by
  rw [decodeCall, if_neg (not_lt.2 h), hm]

theorem decodeCall_of_short {m : Mode} (h : 1 ≤ len) (h5 : len < 5) (hm : magicMode c (rd 0) = some m) :
    decodeCall c rd len = .err .truncatedInput := by
  rw [decodeCall, if_neg (not_lt.2 h), hm]
  exact if_pos h5

section
variable {m : Mode} {te : Nat} (h5 : 5 ≤ len) (hm : magicMode c (rd 0) = some m)
  (hte : te = 4 + ((rd 4).toNat + 1) * 2)
include h5 hm hte

theorem decodeCall_of_noRoot (hroot : decodeNode (fun _ a => rd a) [] 5 (min te len) false = .absent) :
    decodeCall c rd len = .err .corruptTree := by
  subst hte
  rw [decodeCall, if_neg (by omega), hm]
  dsimp only
  rw [if_neg (by omega), hroot]

theorem decodeCall_of_root {root : Trie}
    (hroot : decodeNode (fun _ a => rd a) [] 5 (min te len) false = root) (hpresent : root ≠ .absent) :
    decodeCall c rd len =
      decodeSymbols c rd len root (lengthOf (rd 1) (rd 2) (rd 3)).toNat m
        (2 * (lengthOf (rd 1) (rd 2) (rd 3)).toNat) BitValue.empty te [] none := by
  subst hte
  rw [decodeCall, if_neg (by omega), hm]
  dsimp only
  rw [if_neg (by omega), hroot]
  cases root with
  | absent => exact absurd rfl hpresent
  | leaf sym => rfl
  | internal c0 c1 => rfl

end

section
variable {root : Trie} {n : Nat} {m : Mode} {p q : BitValue} {cur cur' : Nat} {out : List Byte}
  {hold : Option Byte} {sym : Byte}

/-- The loop ends when the bytes are as many as declared (R205). -/
theorem decodeSymbols_of_length (h : out.length = n) (fuel : Nat) :
    decodeSymbols c rd len root n m fuel p cur out hold = .ok out := by
  cases fuel with
  | zero => rfl
  | succ fuel => exact if_pos h

variable (h : out.length ≠ n) (fuel : Nat)
include h

theorem decodeSymbols_of_error {e : ErrKind} (hd : descend c rd len root p cur = .error e) :
    decodeSymbols c rd len root n m (fuel + 1) p cur out hold = .err e := by
  rw [decodeSymbols, if_neg h, hd]

variable (hd : descend c rd len root p cur = .symbol sym q cur')
include hd

theorem decodeSymbols_of_byte8 (hm : m = .byte8) :
    decodeSymbols c rd len root n m (fuel + 1) p cur out hold =
      decodeSymbols c rd len root n m fuel q cur' (out ++ [sym]) hold := by
  subst hm
  rw [decodeSymbols, if_neg h, hd]

theorem decodeSymbols_of_wide (hm : m = .nibble4) (hwide : c.widePolicy = .fault ∧ 0xF < sym.toNat) :
    decodeSymbols c rd len root n m (fuel + 1) p cur out hold = .wideNibble := by
  subst hm
  rw [decodeSymbols, if_neg h, hd]
  cases hold with
  | none => exact if_pos hwide
  | some hi => exact if_pos hwide

theorem decodeSymbols_of_firstNibble (hm : m = .nibble4) (hhold : hold = none)
    (hwide : ¬ (c.widePolicy = .fault ∧ 0xF < sym.toNat)) :
    decodeSymbols c rd len root n m (fuel + 1) p cur out hold =
      decodeSymbols c rd len root n m fuel q cur' out (some (sym <<< 4)) := by
  subst hm hhold
  rw [decodeSymbols, if_neg h, hd]
  exact if_neg hwide

theorem decodeSymbols_of_secondNibble {hi : Byte} (hm : m = .nibble4) (hhold : hold = some hi)
    (hwide : ¬ (c.widePolicy = .fault ∧ 0xF < sym.toNat)) :
    decodeSymbols c rd len root n m (fuel + 1) p cur out hold =
      decodeSymbols c rd len root n m fuel q cur' (out ++ [hi ||| sym]) none := by
  subst hm hhold
  rw [decodeSymbols, if_neg h, hd]
  exact if_neg hwide

end

end

/-! ### The end of a call -/

/-- Some steps take `s` to the end of a call that a result of the reference stands for (R206). -/
def CallEnds (s : State) : CallResult → Prop
  | .ok bytes =>
    ∃ k t, run k s = .next t ∧ t.phase = .done ∧ t.declLen.toNat = bytes.length ∧
      ∀ a, a < bytes.length → memRead t.out a = bytes[a]?
  | .err e => ∃ k t, run k s = .next t ∧ t.phase = .failed ∧ t.err = e
  | .wideNibble => ∃ k, run k s = .fault .wideNibble

/-- Steps before add to those that reach the end. -/
theorem CallEnds.of_run {s t : State} {r : CallResult} {j : Nat} (hj : run j s = .next t) (h : CallEnds t r) :
    CallEnds s r := by
  cases r with
  | ok bytes =>
    obtain ⟨k, u, hk, hend⟩ := h
    exact ⟨j + k, u, (run_add hj k).trans hk, hend⟩
  | err e =>
    obtain ⟨k, u, hk, hend⟩ := h
    exact ⟨j + k, u, (run_add hj k).trans hk, hend⟩
  | wideNibble =>
    obtain ⟨k, hk⟩ := h
    exact ⟨j + k, (run_add hj k).trans hk⟩

theorem CallEnds.of_step {s t : State} {r : CallResult} (hs : step s = .next t) (h : CallEnds t r) : CallEnds s r :=
  .of_run (run_one hs) h

/-- In FAILED the call has ended. -/
theorem callEnds_failed {s : State} {e : ErrKind} (hp : s.phase = .failed) (he : s.err = e) : CallEnds s (.err e) :=
  ⟨0, s, rfl, hp, he⟩

/-- Closing a step that read a stable IN changes nothing. -/
theorem CallEnds.of_stable {s : State} {r : CallResult} (hst : s.inStable = true) (h : CallEnds s r) :
    CallEnds (noteRead s) r := by
  rwa [noteRead_stable s hst]

/-! ### The loop -/

/-- In the body of a call with a stable IN, `out` are the bytes emitted so far. -/
structure HasEmitted (s : State) (out : List Byte) : Prop where
  undisturbed : Undisturbed s
  stable : s.inStable = true
  rootPresent : s.root ≠ .absent
  count : s.emitted.toNat = out.length
  countLe : out.length ≤ s.declLen.toNat
  written : ∀ a, a < out.length → memRead s.out a = out[a]?

/-- The nibble that waits for the second symbol of its pair, the `hold` of R206. -/
def heldNibble (s : State) : Option Byte := if s.nibFull then some s.nibHi else none

theorem heldNibble_of_full {s : State} (h : s.nibFull = true) : heldNibble s = some s.nibHi := if_pos h

theorem heldNibble_of_empty {s : State} (h : s.nibFull = false) : heldNibble s = none := if_neg (by simp [h])

/-- A byte written below `declLen` does not wrap `emitted` (R65). -/
theorem putByte_emitted_toNat {s : State} (hlt : s.emitted.toNat < s.declLen.toNat) (b : Byte) :
    (putByte b s).emitted.toNat = s.emitted.toNat + 1 := by
  have hbound := s.declLen.isLt
  rw [putByte_emitted, BitVec.toNat_add, BitVec.toNat_ofNat]
  omega

section
variable {s : State} {out : List Byte} (h : HasEmitted s out)
include h

/-- A leaf's byte goes behind those emitted, at an address that does not wrap (R201, R65). -/
theorem HasEmitted.hasEmitted_putByte (hlt : out.length < s.declLen.toNat) (b : Byte) :
    HasEmitted (putByte b s) (out ++ [b]) := by
  have hsucc : (putByte b s).emitted.toNat = out.length + 1 := by
    rw [putByte_emitted_toNat (h.count ▸ hlt), h.count]
  exact { h with
    count := by rw [List.length_append]; exact hsucc
    countLe := by rw [List.length_append]; exact hlt
    written := fun a ha => by
      rw [List.length_append, List.length_singleton] at ha
      rw [putByte_out, h.count, memRead_memWrite]
      by_cases hae : a = out.length
      · rw [if_pos hae, hae, List.getElem?_concat_length]
      · rw [if_neg hae, h.written a (by omega), List.getElem?_append_left (by omega)] }

/-- With every declared byte emitted the check ends the call (R197). -/
theorem HasEmitted.callEnds_done (hp : s.phase = .bodyCheck) (hd : out.length = s.declLen.toNat) :
    CallEnds s (.ok out) := by
  have heq : s.emitted = s.declLen := BitVec.eq_of_toNat_eq (h.count.trans hd)
  have hcheck : step s = .next (toPhase .done s) := (step_check h.undisturbed hp).trans (congrArg _ (if_pos heq))
  exact ⟨1, _, run_one hcheck, rfl, hd.symm, h.written⟩

/-- With bytes to come the check starts a descent at the root (R197). -/
theorem HasEmitted.run_check (hp : s.phase = .bodyCheck) (hd : out.length ≠ s.declLen.toNat) :
    run 1 s = .next (descentAt (toPhase .bodyDescend s) s.root s.pend s.bodyCur) := by
  have hne : s.emitted ≠ s.declLen := fun heq => hd (h.count.symm.trans (congrArg BitVec.toNat heq))
  exact run_one ((step_check h.undisturbed hp).trans (congrArg _ (if_neg hne)))

/-- What a descent, a phase and a nibble change counts in no byte emitted. -/
theorem HasEmitted.hasEmitted_descentAt (n : Trie) (p : BitValue) (cur : Nat) :
    HasEmitted (descentAt s n p cur) out := { h with }

theorem HasEmitted.hasEmitted_toPhase (p : Phase) : HasEmitted (toPhase p s) out := { h with }

theorem HasEmitted.hasEmitted_holdNibble (sym : Byte) : HasEmitted (holdNibble sym s) out := { h with }

theorem HasEmitted.hasEmitted_releaseNibble : HasEmitted (releaseNibble s) out := { h with }

end

/-- From BODY_CHECK the block computes the loop of R206 with the bound `fuel` on the symbols to come: two for each byte,
less the one that is held. -/
def ComputesLoop (fuel : Nat) : Prop :=
  ∀ {s : State} {out : List Byte}, HasEmitted s out → s.phase = .bodyCheck →
    2 * (s.declLen.toNat - out.length) ≤ fuel + (if s.nibFull then 1 else 0) →
    CallEnds s (decodeSymbols s.cfg (readIn s []) s.inLen s.root s.declLen.toNat s.mode fuel s.pend s.bodyCur out
      (heldNibble s))

/-- Where the descent of `s` ends that returns a symbol. -/
abbrev atLeaf (s : State) (sym : Byte) (p : BitValue) (cur : Nat) : State :=
  descentAt (toPhase .bodyDescend s) (.leaf sym) p cur

/-- The leaf step emits the symbol as the loop does, and the rest of the loop follows (R171, R201 to R204). -/
theorem ComputesLoop.callEnds_atLeaf {fuel : Nat} (ih : ComputesLoop fuel) {s : State} {out : List Byte}
    (h : HasEmitted s out) (hlt : out.length < s.declLen.toNat)
    (hfuel : 2 * (s.declLen.toNat - out.length) ≤ fuel + 1 + if s.nibFull then 1 else 0)
    {sym : Byte} {p : BitValue} {cur : Nat}
    (hdesc : descend s.cfg (readIn s []) s.inLen s.root s.pend s.bodyCur = .symbol sym p cur) :
    CallEnds (atLeaf s sym p cur)
      (decodeSymbols s.cfg (readIn s []) s.inLen s.root s.declLen.toNat s.mode (fuel + 1) s.pend s.bodyCur out
        (heldNibble s)) := by
  have hne := hlt.ne
  have hv : HasEmitted (atLeaf s sym p cur) out := (h.hasEmitted_toPhase _).hasEmitted_descentAt _ _ _
  have emitted {t : State} (he : emit sym (atLeaf s sym p cur) = .next t) :
      step (atLeaf s sym p cur) = .next (toPhase .bodyCheck t) :=
    (step_leaf hv.undisturbed rfl rfl).trans (exec_descLeaf_of_emit rfl rfl he)
  cases hm : s.mode with
  | byte8 =>
    rw [decodeSymbols_of_byte8 hne fuel hdesc rfl, ← hm]
    refine .of_step (emitted (emit_of_byte8 (s := atLeaf s sym p cur) hm sym))
      (ih ((hv.hasEmitted_putByte hlt sym).hasEmitted_toPhase _) rfl ?_)
    change 2 * (s.declLen.toNat - (out ++ [sym]).length) ≤ fuel + if s.nibFull then 1 else 0
    rw [List.length_append, List.length_singleton]
    omega
  | nibble4 =>
    cases hw : wideFault sym s with
    | true =>
      rw [decodeSymbols_of_wide hne fuel hdesc rfl ((wideFault_iff sym s).1 hw)]
      have hfault : step (atLeaf s sym p cur) = .fault .wideNibble :=
        (step_leaf hv.undisturbed rfl rfl).trans
          (exec_descLeaf_of_fault rfl rfl (emit_of_wide (s := atLeaf s sym p cur) hw hm))
      exact ⟨1, by rw [run, hfault]⟩
    | false =>
      have hnarrow : ¬ (s.cfg.widePolicy = .fault ∧ 0xF < sym.toNat) := fun hc => by
        rw [(wideFault_iff sym s).2 hc] at hw
        cases hw
      cases hf : s.nibFull with
      | false =>
        rw [decodeSymbols_of_firstNibble hne fuel hdesc rfl (heldNibble_of_empty hf) hnarrow, ← hm]
        refine .of_step (emitted (emit_of_firstNibble (s := atLeaf s sym p cur) hw hm hf))
          (ih ((hv.hasEmitted_holdNibble sym).hasEmitted_toPhase _) rfl ?_)
        rw [hf] at hfuel
        exact hfuel
      | true =>
        rw [decodeSymbols_of_secondNibble hne fuel hdesc rfl (heldNibble_of_full hf) hnarrow, ← hm]
        refine .of_step (emitted (emit_of_secondNibble (s := atLeaf s sym p cur) hw hm hf))
          (ih ((hv.hasEmitted_releaseNibble.hasEmitted_putByte hlt _).hasEmitted_toPhase _) rfl ?_)
        change 2 * (s.declLen.toNat - (out ++ [s.nibHi ||| sym]).length) ≤ fuel
        rw [hf, if_pos rfl] at hfuel
        rw [List.length_append, List.length_singleton]
        omega

theorem computesLoop (fuel : Nat) : ComputesLoop fuel := by
  induction fuel with
  | zero =>
    intro s out h hp hfuel
    have hd : out.length = s.declLen.toNat := by
      have hle := h.countLe
      split at hfuel <;> omega
    rw [decodeSymbols_of_length hd]
    exact h.callEnds_done hp hd
  | succ fuel ih =>
    intro s out h hp hfuel
    by_cases hd : out.length = s.declLen.toNat
    · rw [decodeSymbols_of_length hd]
      exact h.callEnds_done hp hd
    · obtain ⟨k, v, hk, -, -, hend⟩ := stepsGive_descend (s := toPhase .bodyDescend s) h.undisturbed h.stable rfl
        h.rootPresent s.pend s.bodyCur
      refine .of_run (h.run_check hp hd) (.of_run hk ?_)
      change EndsDescent _ v (descend s.cfg (readIn s []) s.inLen s.root s.pend s.bodyCur) at hend
      cases hdesc : descend s.cfg (readIn s []) s.inLen s.root s.pend s.bodyCur with
      | error e =>
        rw [hdesc] at hend
        rw [decodeSymbols_of_error hd fuel hdesc]
        exact callEnds_failed hend.1 hend.2
      | symbol sym p cur =>
        rw [hdesc] at hend
        obtain rfl := hend
        exact ih.callEnds_atLeaf h (lt_of_le_of_ne h.countLe hd) hfuel hdesc

/-! ### The whole call -/

/-- A stable IN gives one byte for an address, wherever the walk stands. -/
theorem decodeRoot_of_stable {s : State} (h : s.inStable = true) :
    decodeRoot s = decodeNode (fun _ a => readIn s [] a) [] 5 (min s.treeEnd.toNat s.inLen) false := by
  have hread : readIn s = fun _ a => readIn s [] a := by
    funext place a
    rw [readIn_of_stable h, readIn_of_stable h]
  rw [decodeRoot, effEnd, ← hread]

/-- Body init starts the loop with nothing emitted (R196). -/
theorem hasEmitted_bodyInit {s : State} (hu : Undisturbed s) (hst : s.inStable = true) {root : Trie}
    (hroot : root ≠ .absent) : HasEmitted (toPhase .bodyCheck (bodyInit root s)) [] where
  undisturbed := hu
  stable := hst
  rootPresent := hroot
  count := rfl
  countLe := Nat.zero_le _
  written := nofun

/-- With the header read, the tree step builds the root of the reference, and the loop follows (R195, R206). -/
theorem callEnds_readTree {s : State} (hu : Undisturbed s) (hst : s.inStable = true) (hp : s.phase = .readTree)
    (h5 : 5 ≤ s.inLen) (hm : magicMode s.cfg (readIn s [] 0) = some s.mode) (hlen : s.declLen = headerLength s)
    (hend : s.treeEnd.toNat = 4 + ((readIn s [] 4).toNat + 1) * 2) :
    CallEnds s (decodeCall s.cfg (readIn s []) s.inLen) := by
  refine .of_step (step_readTree hu hp) ?_
  have hroot := (decodeRoot_of_stable hst).symm
  rcases readTree_cases s with ⟨habsent, e⟩ | ⟨hpresent, e⟩ <;> rw [e]
  · rw [decodeCall_of_noRoot h5 hm hend (hroot.trans habsent)]
    exact callEnds_failed (by simp) (by simp)
  · have hbytes : (lengthOf (readIn s [] 1) (readIn s [] 2) (readIn s [] 3)).toNat = s.declLen.toNat :=
      congrArg BitVec.toNat hlen.symm
    rw [decodeCall_of_root h5 hm hend hroot hpresent, hbytes]
    exact .of_stable hst (computesLoop _ (hasEmitted_bodyInit hu hst hpresent) rfl le_rfl)

/-- Settles O57: the header step reads what the reference reads, or raises its error. -/
theorem aCallComputesTheReference : Obligations.ACallComputesTheReference := by
  unfold Obligations.ACallComputesTheReference
  intro s hu hst hp
  change CallEnds s (decodeCall s.cfg (readIn s []) s.inLen)
  refine .of_step (step_readHeader hu hp) ?_
  rcases readHeader_cases s with ⟨h0, e⟩ | ⟨h1, hm, e⟩ | ⟨m, h1, h5, hm, e⟩ | ⟨m, h5, hm, e⟩ <;> rw [e]
  · rw [decodeCall_of_empty h0]
    exact callEnds_failed rfl rfl
  · rw [decodeCall_of_badMagic h1 hm]
    exact callEnds_failed (by simp) (by simp)
  · rw [decodeCall_of_short h1 h5 hm]
    exact callEnds_failed (by simp) (by simp)
  · refine .of_stable hst (callEnds_readTree hu hst rfl h5 hm rfl ?_)
    rw [toPhase_treeEnd, setSelector_treeEnd_toNat]
    change _ = 4 + ((readIn s [] 4).toNat + 1) * 2
    omega

end Sys2Proof.Machine
end

section
/-! SUPPORT. Every call ends within the bound of R207, whatever bytes it reads: each step of the body takes at least one
from `stepsLeft`, a bound on the steps to come. -/

namespace Sys2Proof.Machine

/-! ### The steps of a descent -/

/-- The most steps of a descent from a node with `w` pending bits: a branch for each bit, a refill wherever no bit is
pending, and at a leaf the leaf step with the `after` steps that follow it. -/
def descentSteps (after : Nat) : Trie → Nat → Nat
  | .absent, _ => 0
  | .leaf _, _ => 1 + after
  | .internal c0 c1, 0 => 2 + max (descentSteps after c0 31) (descentSteps after c1 31)
  | .internal c0 c1, w + 1 => 1 + max (descentSteps after c0 w) (descentSteps after c1 w)

/-- A refill of 32 bits is one step (R172). -/
theorem descentSteps_refill (after : Nat) (c0 c1 : Trie) :
    descentSteps after (.internal c0 c1) 32 < descentSteps after (.internal c0 c1) 0 := by
  rw [descentSteps, descentSteps]
  omega

/-- A branch to either child is one step and takes one bit (R173). -/
theorem descentSteps_childOf (after : Nat) (c0 c1 : Trie) (b : Bool) {w : Nat} (hw : 1 ≤ w) :
    descentSteps after (childOf (.internal c0 c1) b) (w - 1) < descentSteps after (.internal c0 c1) w := by
  obtain ⟨w, rfl⟩ := Nat.exists_eq_add_of_le' hw
  rw [descentSteps, Nat.add_sub_cancel]
  cases b with
  | false => change descentSteps after c0 w < _; omega
  | true => change descentSteps after c1 w < _; omega

theorem descentSteps_internal_pos (after : Nat) (c0 c1 : Trie) (w : Nat) :
    0 < descentSteps after (.internal c0 c1) w := by
  cases w <;> rw [descentSteps] <;> omega

/-- No node of a trie is deeper than `d` (R153). -/
def DepthAtMost (d : Nat) (n : Trie) : Prop := ∀ path, follow n path ≠ .absent → path.length ≤ d

/-- A present child is less deep than its parent. -/
theorem DepthAtMost.child {d : Nat} {c0 c1 c : Trie} {b : Bool} (h : DepthAtMost d (.internal c0 c1))
    (hb : childOf (.internal c0 c1) b = c) (hc : c ≠ .absent) : 1 ≤ d ∧ DepthAtMost (d - 1) c := by
  have deep (path : List Bool) (hp : follow c path ≠ .absent) : path.length + 1 ≤ d := by
    refine h (b :: path) ?_
    rwa [← List.singleton_append, follow_append, follow_singleton, hb]
  exact ⟨deep [] (by rwa [follow_nil]), fun path hp => Nat.le_sub_of_add_le (deep path hp)⟩

/-- A descent in a trie of depth `d` takes at most `d` branches, a refill for each 32 of them and the leaf step. One
that fails may take a branch and a refill more, in place of the leaf step and what follows it (R207). -/
theorem descentSteps_le {after : Nat} (hafter : 1 ≤ after) {d : Nat} {n : Trie} (h : DepthAtMost d n) (w : Nat) :
    descentSteps after n w ≤ d + (d - w + 31) / 32 + 1 + after := by
  induction n generalizing d w with
  | absent => exact Nat.zero_le _
  | leaf sym => rw [descentSteps]; omega
  | internal c0 c1 ih0 ih1 =>
    have child {c : Trie} (b : Bool) (hb : childOf (.internal c0 c1) b = c)
        (ih : ∀ {d}, DepthAtMost d c → ∀ w, descentSteps after c w ≤ d + (d - w + 31) / 32 + 1 + after) (v : Nat) :
        descentSteps after c v = 0 ∨
          1 ≤ d ∧ descentSteps after c v ≤ d - 1 + (d - 1 - v + 31) / 32 + 1 + after := by
      by_cases hc : c = .absent
      · rw [hc]; exact .inl rfl
      · obtain ⟨hd, hdepth⟩ := h.child hb hc
        exact .inr ⟨hd, ih hdepth v⟩
    cases w with
    | zero =>
      have h0 := child (c := c0) false rfl ih0 31
      have h1 := child (c := c1) true rfl ih1 31
      rw [descentSteps]
      omega
    | succ w =>
      have h0 := child (c := c0) false rfl ih0 w
      have h1 := child (c := c1) true rfl ih1 w
      rw [descentSteps]
      omega

/-! ### The steps of the body -/

/-- The symbols still to be decoded (R193, R202): for each byte one, or two in 4-bit mode less the one that is held. -/
def symbolsLeft (s : State) : Nat :=
  match s.mode with
  | .byte8 => s.declLen.toNat - s.emitted.toNat
  | .nibble4 => 2 * (s.declLen.toNat - s.emitted.toNat) - if s.nibFull then 1 else 0

/-- The most steps from BODY_CHECK on with so many symbols to come: for each the check, the descent and the leaf step
(R207), and the last check. -/
def checkSteps (s : State) (symbols : Nat) : Nat :=
  symbols * (2 + s.treeSel.toNat + (s.treeSel.toNat + 31) / 32) + 1

/-- A bound on the steps to come in the body of a call. -/
def stepsLeft (s : State) : Nat :=
  match s.phase with
  | .bodyCheck => checkSteps s (symbolsLeft s)
  | .bodyDescend => descentSteps (checkSteps s (symbolsLeft s - 1)) s.node s.pend.w
  | _ => 0

theorem checkSteps_pos (s : State) (symbols : Nat) : 1 ≤ checkSteps s symbols := Nat.succ_pos _

section
variable {s : State}

theorem stepsLeft_of_check (hp : s.phase = .bodyCheck) : stepsLeft s = checkSteps s (symbolsLeft s) := by
  rw [stepsLeft, hp]

theorem stepsLeft_of_descend {n : Trie} (hp : s.phase = .bodyDescend) (hn : s.node = n) :
    stepsLeft s = descentSteps (checkSteps s (symbolsLeft s - 1)) n s.pend.w := by
  rw [stepsLeft, hp, hn]

theorem symbolsLeft_of_byte8 (hm : s.mode = .byte8) :
    symbolsLeft s = s.declLen.toNat - s.emitted.toNat := by
  rw [symbolsLeft, hm]

theorem symbolsLeft_of_nibble4 (hm : s.mode = .nibble4) :
    symbolsLeft s = 2 * (s.declLen.toNat - s.emitted.toNat) - if s.nibFull then 1 else 0 := by
  rw [symbolsLeft, hm]

/-- A byte to come has a symbol to come. -/
theorem symbolsLeft_pos (hlt : s.emitted.toNat < s.declLen.toNat) : 1 ≤ symbolsLeft s := by
  cases hm : s.mode with
  | byte8 => rw [symbolsLeft_of_byte8 hm]; omega
  | nibble4 => rw [symbolsLeft_of_nibble4 hm]; split <;> omega

/-- What an emission counts: one symbol, and no byte past `declLen` (R201 to R203). -/
theorem emit_counts {sym : Byte} {u : State} (hlt : s.emitted.toNat < s.declLen.toNat) (h : emit sym s = .next u) :
    symbolsLeft u = symbolsLeft s - 1 ∧ u.emitted.toNat ≤ u.declLen.toNat := by
  rcases emit_next h with ⟨hm, rfl⟩ | ⟨hm, hf, rfl⟩ | ⟨hm, hf, rfl⟩
  · have hcount := putByte_emitted_toNat hlt sym
    rw [symbolsLeft_of_byte8 hm, symbolsLeft_of_byte8 (s := putByte sym s) hm, hcount, putByte_declLen]
    omega
  · rw [symbolsLeft_of_nibble4 hm, symbolsLeft_of_nibble4 (s := holdNibble sym s) hm, hf]
    exact ⟨rfl, hlt.le⟩
  · have hcount := putByte_emitted_toNat (s := releaseNibble s) hlt (s.nibHi ||| sym)
    have hempty : (putByte (s.nibHi ||| sym) (releaseNibble s)).nibFull = false := rfl
    rw [symbolsLeft_of_nibble4 hm, symbolsLeft_of_nibble4 (s := putByte _ (releaseNibble s)) hm, hcount, hempty, hf,
      if_pos rfl, if_neg Bool.false_ne_true, putByte_declLen, releaseNibble_declLen, releaseNibble_emitted]
    omega

end

/-! ### One step of the body -/

/-- The body of a call between two steps, with IN disturbed or not. -/
structure BodyRuns (s : State) : Prop where
  undisturbed : Undisturbed s
  emittedLe : s.emitted.toNat ≤ s.declLen.toNat
  rootPresent : s.root ≠ .absent
  rootDepth : DepthAtMost s.treeSel.toNat s.root
  phase : s.phase = .bodyCheck ∨
    s.phase = .bodyDescend ∧ s.emitted.toNat < s.declLen.toNat ∧ s.node ≠ .absent

/-- A step of the body takes from the steps to come and keeps the bound of the call. -/
structure Progress (s t : State) : Prop where
  fewer : stepsLeft t < stepsLeft s
  sameBound : stepBound t = stepBound s
  goesOn : Terminal t ∨ BodyRuns t

/-- The one stop on the way (R204). -/
def StopsWide (s : State) : Prop := step s = .fault .wideNibble ∧ s.cfg.widePolicy = .fault

/-! Closing a step that read IN takes at most a draw, which none of this looks at. -/

theorem undisturbed_noteRead {s : State} (h : Undisturbed s) : Undisturbed (noteRead s) := by
  rw [noteRead_eq]; exact h

theorem stepsLeft_noteRead (s : State) : stepsLeft (noteRead s) = stepsLeft s := by rw [noteRead_eq]; rfl

theorem stepBound_noteRead (s : State) : stepBound (noteRead s) = stepBound s := by rw [noteRead_eq]; rfl

theorem BodyRuns.bodyRuns_noteRead {s : State} (h : BodyRuns s) : BodyRuns (noteRead s) := by
  rw [noteRead_eq]; exact { h with }

/-- A raise ends the call at a node that has steps to come. -/
theorem progress_raise {s : State} {c0 c1 : Trie} (hp : s.phase = .bodyDescend) (hn : s.node = .internal c0 c1)
    (e : ErrKind) (info : ErrInfo) (x : BitValue) : Progress s (raise e info (setPend x s)) :=
  ⟨stepsLeft_of_descend hp hn ▸ descentSteps_internal_pos _ _ _ _, rfl, .inl (.inr rfl)⟩

section
variable {s : State} (h : BodyRuns s)
include h

theorem BodyRuns.progress_check (hp : s.phase = .bodyCheck) : Progress s (checkDone s) := by
  have hleft := stepsLeft_of_check hp
  rcases checkDone_cases s with ⟨-, e⟩ | ⟨hd, e⟩ <;> rw [e]
  · exact ⟨hleft ▸ Nat.succ_pos _, rfl, .inl (.inl rfl)⟩
  · have hlt : s.emitted.toNat < s.declLen.toNat :=
      lt_of_le_of_ne h.emittedLe fun he => hd (BitVec.eq_of_toNat_eq he)
    refine ⟨?_, rfl, .inr { h with phase := .inr ⟨rfl, hlt, h.rootPresent⟩ }⟩
    have hdescent := descentSteps_le (checkSteps_pos s (symbolsLeft s - 1)) h.rootDepth s.pend.w
    obtain ⟨left, hsymbols⟩ := Nat.exists_eq_add_of_le' (symbolsLeft_pos hlt)
    change descentSteps (checkSteps s (symbolsLeft s - 1)) s.root s.pend.w < _
    rw [hleft]
    rw [hsymbols, Nat.add_sub_cancel] at hdescent ⊢
    unfold checkSteps at hdescent ⊢
    rw [Nat.succ_mul]
    omega

variable (hp : s.phase = .bodyDescend) (hlt : s.emitted.toNat < s.declLen.toNat)
include hp hlt

theorem BodyRuns.progress_emit {sym : Byte} {u : State} (hn : s.node = .leaf sym) (hu : emit sym s = .next u) :
    Progress s (toPhase .bodyCheck u) := by
  obtain ⟨hsymbols, hle⟩ := emit_counts hlt hu
  have hsteps : checkSteps u = checkSteps s := by
    rcases emit_next hu with ⟨-, rfl⟩ | ⟨-, -, rfl⟩ | ⟨-, -, rfl⟩ <;> rfl
  have hfewer : stepsLeft (toPhase .bodyCheck u) < stepsLeft s := by
    have hnext : stepsLeft (toPhase .bodyCheck u) = checkSteps u (symbolsLeft u) := rfl
    rw [hnext, stepsLeft_of_descend hp hn, hsteps, hsymbols, descentSteps]
    omega
  rcases emit_next hu with ⟨-, rfl⟩ | ⟨-, -, rfl⟩ | ⟨-, -, rfl⟩ <;>
    exact ⟨hfewer, rfl, .inr { h with emittedLe := hle, phase := .inl rfl }⟩

theorem BodyRuns.progress_refill {c0 c1 : Trie} (hn : s.node = .internal c0 c1) (hw : s.pend.w = 0) :
    Progress s (refill (fun win t => setPend (bvConcat t.pend win) t) s) := by
  rcases refill_cases (fun win t => setPend (bvConcat t.pend win) t) s with ⟨-, e⟩ | ⟨-, e⟩ <;> rw [e]
  · exact progress_raise hp hn _ _ s.pend
  · have hruns : BodyRuns (setPend (bvConcat s.pend (refillBits s)) (advanceBody s)) :=
      { h with phase := .inr ⟨hp, hlt, hn ▸ nofun⟩ }
    refine ⟨?_, stepBound_noteRead _, .inr hruns.bodyRuns_noteRead⟩
    have hwidth : (bvConcat s.pend (refillBits s)).w = 32 := by rw [bvConcat_w, hw]; rfl
    calc stepsLeft (noteRead (setPend (bvConcat s.pend (refillBits s)) (advanceBody s)))
      _ = stepsLeft (setPend (bvConcat s.pend (refillBits s)) (advanceBody s)) := stepsLeft_noteRead _
      _ = descentSteps (checkSteps s (symbolsLeft s - 1)) (.internal c0 c1) (bvConcat s.pend (refillBits s)).w :=
        stepsLeft_of_descend hp hn
      _ < descentSteps (checkSteps s (symbolsLeft s - 1)) (.internal c0 c1) s.pend.w := by
        rw [hwidth, hw]; exact descentSteps_refill _ _ _
      _ = stepsLeft s := (stepsLeft_of_descend hp hn).symm

theorem BodyRuns.progress_branch {c0 c1 : Trie} (hn : s.node = .internal c0 c1) (hw : 1 ≤ s.pend.w) (b : Bool) :
    Progress s (branch b s) := by
  rcases branch_cases b s with ⟨-, e⟩ | ⟨hc, e⟩ <;> rw [e]
  · exact progress_raise hp hn _ _ _
  · refine ⟨?_, rfl, .inr { h with phase := .inr ⟨hp, hlt, hc⟩ }⟩
    calc stepsLeft (setNode (childOf s.node b) (setPend (bvDropMsb s.pend) s))
      _ = descentSteps (checkSteps s (symbolsLeft s - 1)) (childOf s.node b) (s.pend.w - 1) :=
        stepsLeft_of_descend hp rfl
      _ < descentSteps (checkSteps s (symbolsLeft s - 1)) (.internal c0 c1) s.pend.w := by
        rw [hn]; exact descentSteps_childOf _ _ _ _ hw
      _ = stepsLeft s := (stepsLeft_of_descend hp hn).symm

end

/-- Each step of the body makes progress, or is the one stop (R190). -/
theorem BodyRuns.progresses {s : State} (h : BodyRuns s) : StopsWide s ∨ ∃ t, step s = .next t ∧ Progress s t := by
  rcases h.phase with hp | ⟨hp, hlt, hpresent⟩
  · exact .inr ⟨_, step_check h.undisturbed hp, h.progress_check hp⟩
  · cases hn : s.node with
    | absent => exact absurd hn hpresent
    | leaf sym =>
      have hstep := step_leaf h.undisturbed hp hn
      rcases emit_cases sym s with ⟨-, hwide, hfault⟩ | ⟨u, hu⟩
      · exact .inl ⟨hstep.trans (exec_descLeaf_of_fault hp hn hfault), ((wideFault_iff sym s).1 hwide).1⟩
      · exact .inr ⟨_, hstep.trans (exec_descLeaf_of_emit hp hn hu), h.progress_emit hp hlt hn hu⟩
    | internal c0 c1 =>
      by_cases hw : s.pend.w = 0
      · exact .inr ⟨_, step_refill h.undisturbed hp hn hw, h.progress_refill hp hlt hn hw⟩
      · have hpos := Nat.one_le_iff_ne_zero.2 hw
        exact .inr ⟨_, step_branch h.undisturbed hp hn hpos, h.progress_branch hp hlt hn hpos _⟩

/-! ### The steps of a call -/

/-- After `used` steps of its call the block in `s` ends it within the bound of R207. -/
def EndsInBound (used : Nat) (s : State) : Prop :=
  ∃ k t, used + k ≤ stepBound t ∧ run k s = .next t ∧ (Terminal t ∨ StopsWide t)

theorem EndsInBound.of_step {used : Nat} {s t : State} (hs : step s = .next t)
    (h : EndsInBound (used + 1) t) : EndsInBound used s := by
  obtain ⟨k, u, hk, hrun, hend⟩ := h
  exact ⟨k + 1, u, by omega, (run_succ hs k).trans hrun, hend⟩

theorem endsInBound_here {used : Nat} {s : State} (hused : used ≤ stepBound s) (h : Terminal s ∨ StopsWide s) :
    EndsInBound used s :=
  ⟨0, s, hused, rfl, h⟩

/-- The body ends within the steps to come, by induction on them. -/
theorem BodyRuns.endsInBound {s : State} (h : BodyRuns s) {used : Nat} (hused : used + stepsLeft s ≤ stepBound s) :
    EndsInBound used s := by
  induction hleft : stepsLeft s using Nat.strong_induction_on generalizing s used with
  | _ left ih =>
    rcases h.progresses with hstop | ⟨t, hstep, hfewer, hbound, hterminal | hruns⟩
    · exact endsInBound_here (by omega) (.inr hstop)
    · exact .of_step hstep (endsInBound_here (by omega) (.inl hterminal))
    · exact .of_step hstep (ih _ (hleft ▸ hfewer) hruns (by omega) rfl)

/-- The bound counts the header, the tree and the steps of the body with every symbol to come (R207). -/
theorem stepBound_eq (s : State) : stepBound s = 2 + checkSteps s (symbolCount s) := rfl

theorem three_le_stepBound (s : State) : 3 ≤ stepBound s := by
  have := checkSteps_pos s (symbolCount s)
  rw [stepBound_eq]
  omega

/-- Body init leaves every symbol to come, below a root whose depth the selector bounds (R153, R196). -/
theorem bodyRuns_bodyInit {s : State} (hu : Undisturbed s) (hend : s.treeEnd.toNat = 6 + 2 * s.treeSel.toNat)
    (hroot : decodeRoot s ≠ .absent) : BodyRuns (toPhase .bodyCheck (bodyInit (decodeRoot s) s)) where
  undisturbed := hu
  emittedLe := Nat.zero_le _
  rootPresent := hroot
  rootDepth := fun path => noNodeIsDeeperThanTheSelector s path hend
  phase := .inl rfl

theorem symbolsLeft_bodyInit (root : Trie) (s : State) :
    symbolsLeft (toPhase .bodyCheck (bodyInit root s)) = symbolCount (toPhase .bodyCheck (bodyInit root s)) := by
  cases hm : s.mode <;> simp [symbolsLeft, symbolCount, hm]

/-- The tree step is the second of a call (R195). -/
theorem endsInBound_readTree {s : State} (hu : Undisturbed s) (hp : s.phase = .readTree)
    (hend : s.treeEnd.toNat = 6 + 2 * s.treeSel.toNat) : EndsInBound 1 s := by
  refine .of_step (step_readTree hu hp) ?_
  rcases readTree_cases s with ⟨-, e⟩ | ⟨hroot, e⟩ <;> rw [e]
  · exact endsInBound_here (le_trans (by decide) (three_le_stepBound _)) (.inl (.inr (by simp)))
  · have hruns := (bodyRuns_bodyInit hu hend hroot).bodyRuns_noteRead
    refine hruns.endsInBound ?_
    rw [stepsLeft_noteRead, stepBound_noteRead, stepBound_eq, stepsLeft_of_check rfl, symbolsLeft_bodyInit]

/-- Settles O58: the header step is the first of a call, and an error in it the end. -/
theorem everyCallEndsWithinItsBound : Obligations.EveryCallEndsWithinItsBound := by
  unfold Obligations.EveryCallEndsWithinItsBound
  intro s hu hp
  suffices h : EndsInBound 0 s by
    obtain ⟨k, t, hk, hrun, hend⟩ := h
    exact ⟨k, t, by omega, hrun, hend⟩
  refine .of_step (step_readHeader hu hp) ?_
  have failed {t : State} (ht : t.phase = .failed) : EndsInBound 1 t :=
    endsInBound_here (le_trans (by decide) (three_le_stepBound t)) (.inl (.inr ht))
  rcases readHeader_cases s with ⟨-, e⟩ | ⟨-, -, e⟩ | ⟨m, -, -, -, e⟩ | ⟨m, -, -, e⟩ <;> rw [e]
  · exact failed rfl
  · exact failed (by simp)
  · exact failed (by simp)
  · refine endsInBound_readTree (undisturbed_noteRead hu) (by simp) ?_
    rw [noteRead_treeEnd, toPhase_treeEnd, setSelector_treeEnd_toNat, noteRead_treeSel]
    rfl

end Sys2Proof.Machine
end

section
/-! SUPPORT. Errors and the status they show: the code of `status` (R230, R236), and that error entry is precise (R237,
R240). -/

namespace Sys2Proof.Machine

/-! ### The status code (R236) -/

theorem statusCode_of_busy {s : State} (h : busy s.phase = true) : statusCode s = 1#3 := by
  unfold statusCode
  cases hp : s.phase with
  | readHeader | readTree | bodyCheck | bodyDescend => rfl
  | idle | done | failed => rw [hp] at h; cases h

theorem statusCode_of_failed {s : State} (h : s.phase = .failed) : statusCode s = errCode s.err := by
  rw [statusCode, h]

theorem statusCode_of_not_failed {s : State} (h : s.phase ≠ .failed) :
    statusCode s = 0#3 ∨ statusCode s = 1#3 ∨ statusCode s = 2#3 := by
  unfold statusCode
  cases hp : s.phase with
  | idle => exact .inl rfl
  | readHeader | readTree | bodyCheck | bodyDescend => exact .inr (.inl rfl)
  | done => exact .inr (.inr rfl)
  | failed => exact absurd hp h

/-- The error codes are 4 to 7 (R230). -/
theorem errCode_bit2 (k : ErrKind) : (errCode k).getLsbD 2 = true := by cases k <;> rfl

theorem statusCode_bit2_iff (s : State) : (statusCode s).getLsbD 2 = true ↔ s.phase = .failed := by
  by_cases hp : s.phase = .failed
  · simp only [statusCode_of_failed hp, errCode_bit2, hp]
  · rcases statusCode_of_not_failed hp with hc | hc | hc <;> simp [hc, hp]

theorem statusCode_ne_three (s : State) : statusCode s ≠ 3#3 := by
  intro hthree
  by_cases hp : s.phase = .failed
  · have hbit := (statusCode_bit2_iff s).2 hp
    simp [hthree] at hbit
  · rcases statusCode_of_not_failed hp with hc | hc | hc <;> simp [hthree] at hc

/-- Settles O46, by the phase and in FAILED by the error kind. -/
theorem statusIsAFunctionOfPhaseAndError : Obligations.StatusIsAFunctionOfPhaseAndError := by
  unfold Obligations.StatusIsAFunctionOfPhaseAndError
  intro s
  refine ⟨fun hp => ?idle, fun hp => statusCode_of_busy ?running, fun hp => ?done, fun hp => ?failed,
    statusCode_bit2_iff s, statusCode_ne_three s⟩
  case idle | done => rw [statusCode, hp]
  case running => rcases hp with hp | hp | hp | hp <;> rw [hp] <;> rfl
  case failed =>
    rw [statusCode_of_failed hp]
    cases s.err <;> rfl

/-! ### Error entry (R240) -/

/-- What an instruction may have written when it raises: `mode` in the header step (R192), `pend` in a branch (R173),
otherwise nothing. -/
inductive WrittenBeforeRaise (i : Instr) (s : State) : State → Prop where
  | nothing : WrittenBeforeRaise i s s
  | mode (m : Mode) (hi : i = .sdReadheader) : WrittenBeforeRaise i s (setMode m s)
  | pend (x : BitValue) (hi : i = .descBranch ∨ i = .bodyBit0 ∨ i = .bodyBit1) : WrittenBeforeRaise i s (setPend x s)

/-- The one way into FAILED is `raise`, in a step that may have read IN. -/
theorem exec_enters_failed {i : Instr} {s t : State} (h : exec i s = .next t) (hs : s.phase ≠ .failed)
    (ht : t.phase = .failed) :
    ∃ k info u, WrittenBeforeRaise i s u ∧ (t = raise k info u ∨ t = noteRead (raise k info u)) := by
  apply exec_next_elim h
  case hbad => exact fun m _ e => ⟨_, _, _, .nothing, .inl e⟩
  case hrh1 | hr1 => exact fun _ e => ⟨_, _, _, .nothing, .inl e⟩
  case hrh2 | ht1 => exact fun _ e => ⟨_, _, _, .nothing, .inr e⟩
  case hrh3 => exact fun m hi e => ⟨_, _, _, .mode m hi, .inr e⟩
  case hb1 => exact fun info hi e => ⟨_, _, _, .pend _ (or_rotate.2 hi), .inl e⟩
  -- every other way to end keeps `phase` or moves it to another one
  all_goals
    intros
    subst t
    simp [hs] at ht

/-- Settles O47: beside what its rule has written, `raise` writes `err`, `phase` and the model's `info`. -/
theorem errorEntryIsPrecise : Obligations.ErrorEntryIsPrecise := by
  unfold Obligations.ErrorEntryIsPrecise
  intro i s t h hs ht
  obtain ⟨k, info, u, hwritten, e⟩ := exec_enters_failed h hs ht
  cases hwritten with
  | nothing => rcases e with rfl | rfl <;> simp
  | mode m hi => rcases e with rfl | rfl <;> simp [hi]
  | pend x hi => rcases e with rfl | rfl <;> simp [hi]

end Sys2Proof.Machine
end

section
/-! SUPPORT. What the host sees outside DONE, and after SD.RESET (R260 to R262). -/

namespace Sys2Proof.Machine

theorem statusCode_of_idle {s : State} (h : s.phase = .idle) : statusCode s = 0#3 := by
  rw [statusCode, h]

theorem outLen_of_not_done {s : State} (h : s.phase ≠ .done) : outLen s = none := if_neg h

/-- Outside DONE a host read of OUT takes nothing from the state (R64, log 8). -/
theorem hostReadOut_of_not_done {s : State} (h : s.phase ≠ .done) (k a : Nat) :
    hostReadOut k s a = Config.freeOut k a :=
  if_neg fun hdone => h hdone.1

theorem exec_sdReset (s : State) : exec .sdReset s = .next (resetBlock s) := rfl

/-- The phase that SD.RESET sets is not DONE, so `outLen` and OUT are hidden whatever the draws are. -/
theorem resetBlock_not_done (s : State) : (resetBlock s).phase ≠ .done := by
  simp

/-- Settles O45: the next state is `resetBlock s`, whose phase alone decides what the host sees. -/
theorem resetGoesToIdleFromAnyPhase : Obligations.ResetGoesToIdleFromAnyPhase := by
  unfold Obligations.ResetGoesToIdleFromAnyPhase
  intro s
  have hnotDone := resetBlock_not_done s
  exact ⟨resetBlock s, exec_sdReset s, resetBlock_phase s, statusCode_of_idle (resetBlock_phase s),
    outLen_of_not_done hnotDone, resetBlock_inp s, resetBlock_cfg s, resetBlock_inputs s,
    hostReadOut_of_not_done hnotDone⟩

end Sys2Proof.Machine
end
